-- ==== Sys2Proof/Word.lean ====
section
/-! DEFINITION. The word types of ScanEngine: the command word (R56), the response word (R64), the frame (R41) and the
level of a line (R10). Every number is an unsigned bit vector with bit 0 the least significant (R10). -/

namespace Sys2Proof

/-- The 128-bit command word `CMD128` of the `cmd` port (R56). -/
abbrev CmdWord := BitVec 128

/-- The 32-bit response word `RSP32` (R64). -/
abbrev RspWord := BitVec 32

/-- A 16-bit frame: bit `i` is the state of channel `i`, 1 when it is active (R41, R10). -/
abbrev Frame := BitVec 16

/-- One of the three 32-bit unsigned operands of `CONFIG` (R58). -/
abbrev Operand := BitVec 32

/-- The level of a single-bit digital line (R10: low = 0, high = 1). -/
inductive Level where
  | low
  | high
  deriving DecidableEq, Repr, Inhabited

end Sys2Proof
end

