-- ==== Sys2Proof/Config.lean ====
section
/-! DEFINITION. What is fixed for the machine: the parameters of R8 with the values this hardware gives them, the input
ports of R29 as the environment presents them, and the two free values of the model. -/

namespace Sys2Proof

/-- The parameters the model takes as arguments (R8). The widths `OPW`, `HALF_W`, `CNT_W` are fixed in the types. -/
structure Params where
  /-- `F_MIN`: lowest accepted target frequency in hertz, inclusive. -/
  fMin : Nat
  /-- `F_MAX`: highest accepted target frequency in hertz, inclusive. -/
  fMax : Nat
  /-- `HAS_LINE_ERR`: whether the `line_err` input exists. -/
  hasLineErr : Bool
  /-- `CLK_RESET`: the level of `CLK` after reset. -/
  clkReset : Level
  deriving DecidableEq, Repr

/-- The answers the environment gives to the line accesses of ONE reaction. A reaction makes at most one drive access
(`L_i` or `H_i`) and at most one read access (`S_i`), so one answer of `LineFault()` for each and one of `SampleData()`
are one draw per access (R11, R100, R102, R134). `true` is `line_err = 1`. DEDUCED, log entry 3. -/
structure Lines where
  /-- `line_err` at the drive access of the reaction. -/
  errDrive : Bool
  /-- `line_err` at the read access of the reaction. -/
  errSample : Bool
  /-- the level of `DATA` at the sample instant. -/
  data : Level
  deriving DecidableEq, Repr, Inhabited

/-- The input ports of R29 at one instant at which something happens: `rst`, `tick`, `cmd_valid`, `cmd`, and the line
inputs during the reaction to the tick and during the reaction to the command. -/
structure Instant where
  rst : Bool
  tick : Bool
  cmdValid : Bool
  cmd : CmdWord
  tickLine : Lines
  cmdLine : Lines
  deriving DecidableEq, Repr, Inhabited

/-- `N_CH`: channels per frame, clock cycles per scan (R8, R9). -/
def Config.channels : Nat := 16

/-- `US_PER_S`: microseconds per second, the divisor of the quiet-period derivation (R8, R9). -/
def Config.usPerSecond : Nat := 1000000

/-- The values R8 fixes for this hardware. -/
def Config.params : Params :=
  { fMin := 1000, fMax := 512000, hasLineErr := true, clkReset := .high }

/-- FREE VALUE (DESIGN CHOICE, log entry 2): what the environment presents at instant number `n` once the instants listed
in `State.inputs` are used up. It has no body: nothing says what the host, the tick source or the device does there
(R102, R134, R170). -/
opaque Config.freeInstant : Nat → Instant

/-- FREE VALUE (DEDUCED, log entry 18): how many free instants may pass, counted from instant number `n`, before one with
a `Tick`. It has no body, so nothing bounds it; that it is a number says that the tick source does not stop for ever
(R145, R170). -/
opaque Config.freeTickGap : Nat → Nat

/-- No line fault and the data line high: nothing active (R10, R134). -/
def Lines.calm : Lines := { errDrive := false, errSample := false, data := .high }

end Sys2Proof
end

