-- ==== Sys2Proof/Syntax.lean ====
section
/-! DEFINITION. The operations of the block: the two commands of the opcode table (R4, R57, R71), the outcome codes of a
response (R65), the two error kinds (R129), the micro-operations of a scan (R96) and the assembler's commands (R68). -/

namespace Sys2Proof

/-- The two host operations, one constructor per row of the opcode table (R4, R71). The operands of `CONFIG` are its
32-bit fields as they stand (R58), so that every value of this type is an instruction. -/
inductive Instr where
  /-- `SCAN`: produce one 16-bit frame (R93). -/
  | scan
  /-- `CONFIG tick_rate, target_frequency, quiet_duration`: construct the engine (R76). -/
  | config (tickRate targetFreq quietUs : Operand)
  deriving DecidableEq, Repr

/-- The operation a command or a response names (`op` in R56, `rop` in R64). -/
inductive Op where
  | scan
  | config
  deriving DecidableEq, Repr

/-- The operation of an instruction. -/
def Instr.op : Instr → Op
  | .scan => .scan
  | .config _ _ _ => .config

/-- The outcome a response reports (R65). -/
inductive Status where
  | ok
  | frequencyOutOfRange
  | lineError
  deriving DecidableEq, Repr

/-- The two error kinds, all there are (R129, R141). -/
inductive ErrorKind where
  /-- `ConfigError::FrequencyOutOfRange`, raised by `CONFIG` only (R130). -/
  | frequencyOutOfRange
  /-- `LineError`, raised by `SCAN` only, at a line access (R133). -/
  | lineError
  deriving DecidableEq, Repr

/-- Phase within `Clocking(i)` (R25): `low` is the first half-period wait, `high` the second. -/
inductive Phase where
  | low
  | high
  deriving DecidableEq, Repr

/-- The micro-operations of a scan (R96): `i` is the channel. -/
inductive MicroOp where
  | driveLow (i : Nat)
  | waitHalf (i : Nat) (ph : Phase)
  | driveHigh (i : Nat)
  | sample (i : Nat)
  | next (i : Nat)
  | waitQuiet
  | respond
  deriving DecidableEq, Repr

/-- A command as the assembler text writes it: the operands are numbers of any size (R68). -/
inductive AsmCommand where
  | scan
  | config (tickRate targetFrequency quietUs : Nat)
  deriving DecidableEq, Repr

end Sys2Proof
end

