-- ==== Sys2Proof/WellFormed.lean ====
section
/-! DEFINITION. What is well formed. An `Instr` has nothing to check: its operands are 32-bit by type and every 128-bit
word is a command (R63). The checks are those of the assembler's operands (R68), of the parameters (R8), of a command
word as a host writes it (R59, R60) and of a response word (R66). -/

namespace Sys2Proof

/-- Each operand of an assembler line must fit 32 bits unsigned; a larger number is an assembly error (R68). -/
def AsmCommand.wf : AsmCommand → Bool
  | .scan => true
  | .config t f q => decide (t < 2 ^ 32) && decide (f < 2 ^ 32) && decide (q < 2 ^ 32)

/-- The parameters must satisfy `1 <= F_MIN <= F_MAX <= 2^32 - 1` (R8). -/
def Params.wf (p : Params) : Bool :=
  decide (1 ≤ p.fMin) && decide (p.fMin ≤ p.fMax) && decide (p.fMax ≤ 2 ^ 32 - 1)

/-- A command word whose ignored bits are 0, as a host writes it: bits 127:97 always, bits 95:0 too when `op = 0`
(R59, R60). The decoder does not ask for it. -/
def CmdWord.canonical (w : CmdWord) : Bool :=
  w.extractLsb' 97 31 == 0 && (w.getLsbD 96 || w.extractLsb' 0 96 == 0)

/-- A word that `RSP` can hold: a `SCAN` frame (or the reset value 0), `LineError`, `CONFIG` succeeded, `CONFIG` failed
(R66). Every other pattern is never produced. -/
def RspWord.wf (w : RspWord) : Bool :=
  w.extractLsb' 16 16 == 0 || w == 0x00020000 || w == 0x00040000 || w == 0x00050000

end Sys2Proof
end

