-- ==== Sys2Proof/Decode.lean ====
section
/-! DEFINITION. The decoder and the encoder of command words (R56 to R61) and the opcode map (R71). The decoder is total:
there is no illegal command word (R63), so nothing is rejected here. Word order: one 128-bit value, no bytes (R44). -/

namespace Sys2Proof

/-- Bit 96 of a command word: 0 = `SCAN`, 1 = `CONFIG` (R57). -/
def cmdOpBit (w : CmdWord) : Bool := w.getLsbD 96

/-- `cmd[31:0]`, ticks per second (R58). -/
def cmdTickRate (w : CmdWord) : Operand := w.extractLsb' 0 32

/-- `cmd[63:32]`, hertz (R58). -/
def cmdTargetFreq (w : CmdWord) : Operand := w.extractLsb' 32 32

/-- `cmd[95:64]`, microseconds (R58). -/
def cmdQuietUs (w : CmdWord) : Operand := w.extractLsb' 64 32

/-- The decoder, total on 128-bit words (R61). -/
def decode (w : CmdWord) : Instr :=
  if cmdOpBit w then .config (cmdTickRate w) (cmdTargetFreq w) (cmdQuietUs w) else .scan

/-- The encoder of R61: `encode(CONFIG(t, f, q)) = {31 zeros, 1, q, f, t}`, `encode(SCAN) = 0`. -/
def encode : Instr → CmdWord
  | .scan => 0
  | .config t f q => 0#31 ++ 1#1 ++ q ++ f ++ t

/-- The host's view of the decoder: the word has the table's 128 bits; bits above `nbits` are 0. A row of this table is
never longer than the one command word (R56). -/
def decodeTableWord (nbits w : Nat) : Option Instr :=
  if nbits ≤ 128 then some (decode (BitVec.ofNat 128 (w % 2 ^ nbits))) else none

/-- A row of the opcode map (R71): a word belongs to the row when it agrees with the pattern under the mask. -/
structure OpcodeRow where
  mnemonic : String
  pattern : CmdWord
  mask : CmdWord
  deriving DecidableEq, Repr

/-- A word `w` selects the row for which `(w and mask) = match` (R71). -/
def OpcodeRow.selects (r : OpcodeRow) (w : CmdWord) : Bool := w &&& r.mask == r.pattern

/-- The row of `SCAN` (R71). -/
def scanRow : OpcodeRow :=
  { mnemonic := "SCAN", pattern := 0, mask := 0x00000001000000000000000000000000 }

/-- The row of `CONFIG` (R71). -/
def configRow : OpcodeRow :=
  { mnemonic := "CONFIG", pattern := 0x00000001000000000000000000000000,
    mask := 0x00000001000000000000000000000000 }

/-- The complete opcode map (R71). -/
def opcodeTable : List OpcodeRow := [scanRow, configRow]

/-- The mnemonic of an instruction (R71). -/
def Instr.mnemonic : Instr → String
  | .scan => "SCAN"
  | .config _ _ _ => "CONFIG"

end Sys2Proof
end

