-- ==== Sys2Proof/Machine/State.lean ====
section
/-! DEFINITION. The state of the machine. `Engine` holds the ten registers that R13 says are all the state there is, and
the two ghosts R12 and R111 name (the tick count and the trace). `State` adds the inputs of the spec's step relation,
because the host's step is a function of the state alone (log entries 1 to 3, 18, 22). There is no memory (R40). -/

namespace Sys2Proof.Machine

/-- The values of register `STATE` (R23). The fourth code of the 2-bit register does not exist here (U7, D23). -/
inductive SeqState where
  | idle
  | clocking
  | quietWait
  deriving DecidableEq, Repr

/-- The externally visible events (R111). -/
inductive TraceEvent where
  | clkLow
  | clkHigh
  | sample (l : Level)
  | rsp (w : RspWord)
  deriving DecidableEq, Repr

/-- A trace event with the tick count at which it occurred (R12, R111). -/
structure Stamped where
  tick : Nat
  event : TraceEvent
  deriving DecidableEq, Repr

/-- The ten registers of R13 and the two ghosts. -/
structure Engine where
  /-- `CONFIGURED` (R14). -/
  configured : Bool
  /-- `HALF` (R15). -/
  half : BitVec 32
  /-- `QUIET` (R16). -/
  quiet : BitVec 48
  /-- `STATE` (R23). -/
  state : SeqState
  /-- `IDX` (R24). -/
  idx : BitVec 4
  /-- `PH` (R25). -/
  ph : Phase
  /-- `CNT` (R19). -/
  cnt : BitVec 48
  /-- `ACC` (R18). -/
  acc : Frame
  /-- `CLK` (R21). -/
  clk : Level
  /-- `RSP` (R20). -/
  rsp : RspWord
  /-- The ghost `NOW`: `Tick` events since reset (R12). -/
  now : Nat
  /-- The ghost trace: the visible events since reset, oldest first (R111). DESIGN CHOICE, log entry 5. -/
  trace : List Stamped
  deriving DecidableEq, Repr

/-- The reset values of R13 and R156; `NOW` is 0 by convention (R156) and the trace begins. -/
def Engine.resetWith (p : Params) : Engine :=
  { configured := false, half := 0, quiet := 0, state := .idle, idx := 0, ph := .low, cnt := 0, acc := 0,
    clk := p.clkReset, rsp := 0, now := 0, trace := [] }

/-- One external event with the line levels its reaction meets (R95, R31). -/
inductive Event where
  /-- The `Reset` event (R156). -/
  | reset
  /-- One `Tick` event (R30). -/
  | tick (l : Lines)
  /-- The host has `w` on the command port with `cmd_valid = 1` (R31); the engine may accept it or not (R62). -/
  | offer (w : CmdWord) (l : Lines)
  deriving DecidableEq, Repr

/-- The reasons a step could stop with a fault: none. The block's two errors are reported in a response word and the
engine goes on (R129, R138, R141). Nobody raises one, so this is safe (log entry 12). -/
inductive Fault where
  deriving DecidableEq, Repr

/-- The reasons a step could be refused. -/
inductive Refusal where
  /-- An arm of `exec` without a meaning would raise it; both instructions have theirs, so nobody does. Safe. -/
  | notModelled (mnemonic : String)
  deriving DecidableEq, Repr

/-- The state of the model: the engine, and the environment's inputs to it. -/
structure State where
  /-- The registers and ghosts. -/
  eng : Engine
  /-- The answers of the line accesses of the reaction in progress (log entry 3). -/
  line : Lines
  /-- The word on the command port: `some w` while `cmd_valid = 1` with `cmd = w` and the word has not been accepted
  (R29, R31, R179; log entry 22). -/
  port : Option CmdWord
  /-- The events of the present instant that have not been processed yet (log entry 1). -/
  pending : List Event
  /-- The instants the environment will present (log entry 1). -/
  inputs : List Instant
  /-- How many instants have been presented: the argument of the free value (log entry 2). -/
  instants : Nat
  /-- How many more free instants may pass without a `Tick`; `none` while that has not been drawn (R145, log entry 18). -/
  tickWithin : Option Nat
  deriving DecidableEq, Repr

/-- The machine right after reset (R156): every register at its reset value, no input yet. -/
def State.reset : State :=
  { eng := Engine.resetWith Config.params, line := Lines.calm, port := none, pending := [], inputs := [], instants := 0,
    tickWithin := none }

end Sys2Proof.Machine
end

