-- ==== Sys2Proof/Machine/Flags.lean ====
section
/-! DEFINITION. The flag `CONFIGURED`, the acceptance predicate and the output ports (R28, R29, R62). The block has no
condition codes. -/

namespace Sys2Proof.Machine

/-- `busy`: `STATE != Idle`, a function of the state and no register (R28, R33). -/
def busy (e : Engine) : Bool := decide (e.state ≠ .idle)

/-- An instruction is accepted: `CONFIG` in `Idle`, `SCAN` in `Idle` on a configured engine (R62). -/
def accepts (e : Engine) (i : Instr) : Bool :=
  !busy e && (match i with | .scan => e.configured | .config _ _ _ => true)

/-- `cmd_ready` for the word `w` on the port: `(STATE = Idle) and (w[96] = 1 or CONFIGURED = 1)` (R31, R62). -/
def cmdReady (e : Engine) (w : CmdWord) : Bool := !busy e && (cmdOpBit w || e.configured)

/-- The output `rsp`: the value of `RSP` (R32). -/
def rspPort (e : Engine) : RspWord := e.rsp

/-- The responses announced since reset, oldest first: the `Rsp` events of the trace (R32). -/
def responses (e : Engine) : List RspWord :=
  e.trace.filterMap fun x => match x.event with | .rsp w => some w | _ => none

/-- The pulse `rsp_valid` of a reaction that leads from `before` to `after`: a response has just been written, that is
the reaction announced one more `Rsp` event (R32). -/
def rspValid (before after : Engine) : Bool := decide ((responses before).length < (responses after).length)

/-- The output `configured` (R33). -/
def configuredPort (e : Engine) : Bool := e.configured

/-- The output `half_ticks` (R33). -/
def halfTicksPort (e : Engine) : BitVec 32 := e.half

/-- The output `quiet_ticks` (R33). -/
def quietTicksPort (e : Engine) : BitVec 48 := e.quiet

/-- The output `clk`: the line level is `CLK` at every instant (R21, R29). -/
def clkPort (e : Engine) : Level := e.clk

end Sys2Proof.Machine
end

