-- ==== Sys2Proof/Machine/Operands.lean ====
section
/-! DEFINITION. The arithmetic of `CONFIG` on its operands, exact on natural numbers (R76 to R90): the band check, the two
derivations, the condition of success. -/

namespace Sys2Proof.Machine

/-- The band check passes: `F_MIN <= f <= F_MAX`, both ends inside (R77). -/
def inBand (p : Params) (f : Nat) : Bool := decide (p.fMin ≤ f) && decide (f ≤ p.fMax)

/-- `half_period_ticks = floor(t / (2 * f))` (R78). -/
def halfPeriod (t f : Nat) : Nat := t / (2 * f)

/-- `quiet_period_ticks = floor((q * t) / 1000000)`: the product first, then one division (R79). -/
def quietPeriod (q t : Nat) : Nat := q * t / Config.usPerSecond

/-- The frequency in hertz of the clock a half period of `half` ticks produces when the tick source really runs at
`tickRate` (R89, R177). No step uses it (log entry 17). -/
def producedHz (tickRate half : Nat) : ℚ := (tickRate : ℚ) / (2 * (half : ℚ))

/-- The real length in seconds of `n` ticks of a source of `tickRate` ticks per second (R177). No step uses it. -/
def ticksToSeconds (tickRate n : Nat) : ℚ := (n : ℚ) / (tickRate : ℚ)

end Sys2Proof.Machine
end

