-- ==== Sys2Proof/Machine/Ops.lean ====
section
/-! DEFINITION. The shared operations on the engine: bit and code helpers, the trace, the response, the entry of the two
errors, the line accesses, the waits, and reset. Each takes zero ticks (R12). -/

namespace Sys2Proof.Machine

/-- The level a bit stands for: low = 0, high = 1 (R10). -/
def levelOfBit (b : Bool) : Level := if b then .high else .low

/-- `active` as a channel state: 1 if the sampled level is low, 0 if it is high (R101). -/
def channelActive : Level → Bool
  | .low => true
  | .high => false

/-- `ACC[i] <- b`: that one bit, no other (R18, R100). -/
def setFrameBit (f : Frame) (i : Nat) (b : Bool) : Frame :=
  f &&& ~~~(1#16 <<< i) ||| (if b then 1#16 <<< i else 0)

/-- The opcode bit of an operation, in a command (`op`, R57) and in a response (`rop`, R64). -/
def opBit : Op → BitVec 1
  | .scan => 0
  | .config => 1

/-- The status codes (R65). The code 11 is never produced. -/
def statusCode : Status → BitVec 2
  | .ok => 0
  | .frequencyOutOfRange => 1
  | .lineError => 2

/-- The response word `{13 zeros, op, status[1:0], frame[15:0]}` (R64, R66). -/
def responseWord (op : Op) (st : Status) (frame : Frame) : RspWord :=
  0#13 ++ opBit op ++ statusCode st ++ frame

/-- Put an event at the end of the trace, stamped with the present tick count (R111). -/
def emit (ev : TraceEvent) (e : Engine) : Engine := { e with trace := e.trace ++ [⟨e.now, ev⟩] }

/-- `Respond(op, status, frame)`: write `RSP` and emit `Rsp` of that word (R66). -/
def respond (op : Op) (st : Status) (frame : Frame) (e : Engine) : Engine :=
  emit (.rsp (responseWord op st frame)) { e with rsp := responseWord op st frame }

/-- The entry of the two errors (R129). There is no handler and nothing is saved (R138): the error is reported in the
response word, with frame field 0 (R67), and the engine is in `Idle`, which is all its return (R132, R136, R140).
`ConfigError` clears the configuration (R85, R131); `LineError` ends the scan without a quiet wait and leaves `CLK`,
`ACC`, `IDX`, `PH` and the configuration as they are (R135). -/
def raise (k : ErrorKind) (e : Engine) : Engine :=
  match k with
  | .frequencyOutOfRange =>
    respond .config .frequencyOutOfRange 0 { e with half := 0, quiet := 0, configured := false }
  | .lineError => respond .scan .lineError 0 { e with cnt := 0, state := .idle }

/-- `LineFault()`: the level of `line_err` at this access, constantly 0 without the input (R133, R134). -/
def lineFault (p : Params) (lineErr : Bool) : Bool := p.hasLineErr && lineErr

/-- `DriveClk(l)`: `CLK` takes the level and `ClkLow` or `ClkHigh` is emitted (R11, R97, R99). -/
def driveClk (l : Level) (e : Engine) : Engine :=
  emit (match l with | .low => .clkLow | .high => .clkHigh) { e with clk := l }

/-- The effect of `SAMPLE` once the access is granted: `Sample(l)` is emitted and bit `IDX` of `ACC` is written
(R100, R101). -/
def storeSample (l : Level) (e : Engine) : Engine :=
  emit (.sample l) { e with acc := setFrameBit e.acc e.idx.toNat (channelActive l) }

/-- The start of `WAIT_HALF` in phase `ph`: `PH` and `CNT <- HALF` (R95, R98). -/
def waitHalf (ph : Phase) (e : Engine) : Engine := { e with ph := ph, cnt := e.half.setWidth 48 }

/-- One count of the down-counter; it stops at 0 and never wraps (R19, R144). At 0 in a wait, which no run reaches (R27),
it stays 0: DESIGN CHOICE, log entry 6. -/
def countDown (c : BitVec 48) : BitVec 48 := if c = 0 then 0 else c - 1

/-- `RESPOND`: the frame becomes visible, whole, and the engine is `Idle` (R122). -/
def respondFrame (e : Engine) : Engine := { respond .scan .ok e.acc e with state := .idle }

/-- `NEXT(15)` and `WAIT_QUIET`: `QuietWait` begins; a wait of 0 ticks is over at once (R103, R119, R120). -/
def enterQuiet (e : Engine) : Engine :=
  if e.quiet = 0 then respondFrame { e with state := .quietWait, cnt := 0 }
  else { e with state := .quietWait, cnt := e.quiet }

/-- The `Reset` event: every register takes its reset value, no `Rsp` event (R156, R158). -/
def resetEngine (p : Params) (_e : Engine) : Engine := Engine.resetWith p

end Sys2Proof.Machine
end

