-- ==== Sys2Proof/Machine/Configure.lean ====
section
/-! DEFINITION. `CONFIG`, the tick-rate-derived baud logic (R76 to R90). -/

namespace Sys2Proof.Machine

/-- Success of `CONFIG`: the derived constants are written, the operands are not kept (R84). The widths suffice for
every operand (R86). -/
def configSucceeds (h qq : Nat) (e : Engine) : Engine :=
  respond .config .ok 0 { e with half := BitVec.ofNat 32 h, quiet := BitVec.ofNat 48 qq, configured := true }

/-- The pseudocode of R76: band check, half period, zero check, quiet period, in this order (R81). -/
def configure (p : Params) (t f q : Operand) (e : Engine) : Engine :=
  if inBand p f.toNat then
    if halfPeriod t.toNat f.toNat = 0 then raise .frequencyOutOfRange e
    else configSucceeds (halfPeriod t.toNat f.toNat) (quietPeriod q.toNat t.toNat) e
  else raise .frequencyOutOfRange e

/-- `CONFIG`: executed at the instant it is accepted, in zero ticks (R83); a word that is not accepted has no effect
and waits at the port (R31, R62; log entry 8); an accepted one leaves the port. -/
def execConfig (t f q : Operand) (s : State) : Host.Outcome State Fault Refusal :=
  if accepts s.eng (.config t f q) then .next { s with eng := configure Config.params t f q s.eng, port := none }
  else .next s

end Sys2Proof.Machine
end

