-- ==== Sys2Proof/Machine/Scan.lean ====
section
/-! DEFINITION. `SCAN`, the clock toggle sequencer and the quiet enforcer, in the event-driven form that is normative for
the hardware (R95): the reaction to the command and the reactions to the ticks. -/

namespace Sys2Proof.Machine

/-- `drive_low()`: `DRIVE_LOW`, then the first half-period wait; or the abort (R95, R97, R135). -/
def driveLow (p : Params) (l : Lines) (e : Engine) : Engine :=
  if lineFault p l.errDrive then raise .lineError e else waitHalf .low (driveClk .low e)

/-- The end of the first half-period wait: `DRIVE_HIGH`, `SAMPLE`, then the second half-period wait; `LineFault()` is
asked for the drive first and, if that is granted, for the read (R95, R99, R100, R137). -/
def driveHighAndSample (p : Params) (l : Lines) (e : Engine) : Engine :=
  if lineFault p l.errDrive then raise .lineError e
  else if lineFault p l.errSample then raise .lineError (driveClk .high e)
  else waitHalf .high (storeSample l.data (driveClk .high e))

/-- `NEXT`: the next channel's `DRIVE_LOW`, or after channel 15 the quiet wait (R95, R103). -/
def nextChannel (p : Params) (l : Lines) (e : Engine) : Engine :=
  if e.idx < 15 then driveLow p l { e with idx := e.idx + 1 } else enterQuiet e

/-- `wait_done()` (R95). In `Idle`, where no wait is in progress, it does nothing; no reaction calls it there
(log entry 7). -/
def waitDone (p : Params) (l : Lines) (e : Engine) : Engine :=
  match e.state, e.ph with
  | .clocking, .low => driveHighAndSample p l e
  | .clocking, .high => nextChannel p l e
  | .quietWait, _ => respondFrame e
  | .idle, _ => e

/-- The reaction to a `Tick` event: `NOW` grows; in `Idle` nothing else happens (R105); in a wait `CNT` counts down and
the wait is over when it reaches 0 (R95, R98, R104). -/
def onTick (p : Params) (l : Lines) (e : Engine) : Engine :=
  if e.state = .idle then { e with now := e.now + 1 }
  else if countDown e.cnt = 0 then waitDone p l { e with now := e.now + 1, cnt := 0 }
  else { e with now := e.now + 1, cnt := countDown e.cnt }

/-- The reaction to an accepted `SCAN` (R95). -/
def startScan (p : Params) (l : Lines) (e : Engine) : Engine :=
  driveLow p l { e with acc := 0, idx := 0, state := .clocking }

/-- `SCAN`: what happens at the instant it is accepted; the rest of the scan is the reactions to the ticks. A word that
is not accepted has no effect: it waits at the port (R31, R62, R139; log entry 8); an accepted one leaves the port. -/
def execScan (s : State) : Host.Outcome State Fault Refusal :=
  if accepts s.eng .scan then .next { s with eng := startScan Config.params s.line s.eng, port := none } else .next s

end Sys2Proof.Machine
end

