-- ==== Sys2Proof/Machine/Dispatch.lean ====
section
/-! DEFINITION. One arm per instruction: its meaning (R93, R76). -/

namespace Sys2Proof.Machine

def exec (i : Instr) (s : State) : Host.Outcome State Fault Refusal :=
  match i with
  | .scan => Sys2Proof.Machine.execScan s
  | .config t f q => Sys2Proof.Machine.execConfig t f q s

end Sys2Proof.Machine
end

