-- ==== Sys2Proof/Machine/Events.lean ====
section
/-! DEFINITION. The events of an instant in the order the hardware gives them (R156, R162), and how the environment
presents one instant after another (R29, R170, R179). -/

namespace Sys2Proof.Machine

/-- The events of one instant: `Reset` overrides every other event of its instant (R156; log entry 4); a `Tick` comes
before a command (R162). -/
def eventsOf (i : Instant) : List Event :=
  if i.rst then [.reset]
  else (if i.tick then [.tick i.tickLine] else []) ++ (if i.cmdValid then [.offer i.cmd i.cmdLine] else [])

/-- What the host has on the command port at an instant: a word with `cmd_valid = 1`, or nothing, by which a word that
was waiting there is withdrawn (R29, R31, R170). A `Reset` does not take it from the host. -/
def portOf (i : Instant) : Option CmdWord := if i.cmdValid then some i.cmd else none

/-- The instant `i` begins: its events are to be processed and the port is as it says. The engine makes no move. -/
def beginInstant (i : Instant) (s : State) : State :=
  { s with pending := eventsOf i, port := portOf i, instants := s.instants + 1 }

/-- An instant at which a `Tick` event occurs, the other inputs as in `i`. -/
def withTick (i : Instant) : Instant := { i with rst := false, tick := true }

/-- How many more free instants may pass without a `Tick` event: the rest of the gap drawn last, or a new gap
(R145, log entry 18). -/
def tickDue (s : State) : Nat := s.tickWithin.getD (Config.freeTickGap s.instants)

/-- The environment presents its next instant: the first listed one, or a free one (log entries 1, 2). Every gap between
the ticks of the free instants ends, since the tick source does not stop for ever (R145, log entry 18). -/
def presentInstant (s : State) : State :=
  match s.inputs with
  | i :: is => { beginInstant i s with inputs := is }
  | [] =>
    match tickDue s with
    | 0 => { beginInstant (withTick (Config.freeInstant s.instants)) s with tickWithin := none }
    | n + 1 => { beginInstant (Config.freeInstant s.instants) s with tickWithin := some n }

/-- The `Reset` event: the engine is reset, the environment is not (R156, R158; log entry 4). -/
def takeReset (s : State) : State := { s with eng := resetEngine Config.params s.eng }

/-- A `Tick` event whose reaction meets the line levels `l`. -/
def takeTick (l : Lines) (s : State) : State := { s with line := l, eng := onTick Config.params l s.eng }

/-- The state in which the word `w` would be accepted: what the host's probe of one instruction needs of an engine that
would leave the word waiting. The engine is made `Idle` as after reset and, for a `SCAN`, configured as the worked
example of R76 leaves it (log entry 9). -/
def readyFor (w : CmdWord) (e : Engine) : Engine :=
  if cmdReady e w then e
  else if cmdOpBit w then Engine.resetWith Config.params
  else { Engine.resetWith Config.params with configured := true, half := 50, quiet := 1000 }

end Sys2Proof.Machine
end

