-- ==== Sys2Proof/Machine/Step.lean ====
section
/-! DEFINITION. One step of the machine: one event with its complete zero-tick reaction (R12, R95), or, when the present
instant has none left, the environment's next instant. -/

namespace Sys2Proof.Machine

/-- One step (R95, R162). An offered word stands on the port and is decoded and run; its meaning looks whether it
is accepted, and only then takes it from the port. -/
def step (s : State) : Host.Outcome State Fault Refusal :=
  match s.pending with
  | [] => .next (presentInstant s)
  | .reset :: es => .next (takeReset { s with pending := es })
  | .tick l :: es => .next (takeTick l { s with pending := es })
  | .offer w l :: es => exec (decode w) { s with pending := es, line := l, port := some w }

/-- The host offers the command word `w mod 2^nbits` as the next event, on an engine that accepts it and with no line
fault (log entry 9). -/
def State.withFetchWord (s : State) (nbits w : Nat) : State :=
  { s with
    eng := readyFor (BitVec.ofNat 128 (w % 2 ^ nbits)) s.eng,
    port := some (BitVec.ofNat 128 (w % 2 ^ nbits)),
    pending := .offer (BitVec.ofNat 128 (w % 2 ^ nbits)) Lines.calm :: s.pending }

end Sys2Proof.Machine
end

