-- ==== Sys2Proof/Machine/Schedule.lean ====
section
/-! DEFINITION. The schedule of a scan as the spec tabulates it: the line accesses and their tick counts (R106, R134,
R176), the trace of a scan (R106, R111), the order of the sequencer's positions (R26) and the ticks a scan still needs
(R112, R176). `step` uses none of it: these are the terms in which claims about whole scans are stated. An environment is
given here as the line levels met by the reaction at each tick count. -/

namespace Sys2Proof.Machine

/-- The kinds of line access within a clock cycle, in their order (R134). -/
inductive AccessKind where
  | driveLow
  | driveHigh
  | read
  deriving DecidableEq, Repr

/-- The kind of access number `n`: the accesses of a scan are numbered 0 to 47 in their order, three for each channel,
`L_i`, `H_i`, `S_i` (R134). -/
def accessKind (n : Nat) : AccessKind :=
  match n % 3 with
  | 0 => .driveLow
  | 1 => .driveHigh
  | _ => .read

/-- The channel of access number `n`. -/
def accessChannel (n : Nat) : Nat := n / 3

/-- The tick count of access number `n`, counted from the acceptance of the scan: `2 i HALF` for `L_i`,
`(2 i + 1) HALF` for `H_i` and `S_i` (R134, R176). -/
def accessOffset (half n : Nat) : Nat :=
  match accessKind n with
  | .driveLow => 2 * accessChannel n * half
  | _ => (2 * accessChannel n + 1) * half

/-- What `LineFault()` answers at access number `n` of a scan accepted at `t0` (R134). -/
def accessFaults (p : Params) (env : Nat → Lines) (t0 half n : Nat) : Bool :=
  match accessKind n with
  | .read => lineFault p (env (t0 + accessOffset half n)).errSample
  | _ => lineFault p (env (t0 + accessOffset half n)).errDrive

/-- The level `SampleData()` answers for channel `i` of a scan accepted at `t0` (R102, R106). -/
def sampledLevel (env : Nat → Lines) (t0 half i : Nat) : Level := (env (t0 + (2 * i + 1) * half)).data

/-- The trace event of access number `n` when it takes effect (R97, R99, R100). -/
def accessEvent (env : Nat → Lines) (t0 half n : Nat) : Stamped :=
  { tick := t0 + accessOffset half n
    event := match accessKind n with
      | .driveLow => .clkLow
      | .driveHigh => .clkHigh
      | .read => .sample (sampledLevel env t0 half (accessChannel n)) }

/-- The line events of the first `n` accesses of a scan (R106). -/
def lineEvents (env : Nat → Lines) (t0 half n : Nat) : List Stamped :=
  (List.range n).map (accessEvent env t0 half)

/-- The `Tick` events that follow tick count `t`, `n` of them, in an environment. -/
def tickEvents (env : Nat → Lines) (t n : Nat) : List Event :=
  (List.range n).map fun k => .tick (env (t + k + 1))

/-- The ticks a scan takes from its `Cmd` to its `Rsp` when nothing fails (R106, R176). -/
def scanTicks (half quiet : Nat) : Nat := 32 * half + quiet

/-- The resting positions of the sequencer (R22, R26). `IDX` and `PH` count only while `STATE = Clocking`. -/
inductive Position where
  | idle
  | clocking (i : BitVec 4) (ph : Phase)
  | quietWait
  deriving DecidableEq, Repr

/-- The position an engine is in (R22). -/
def positionOf (e : Engine) : Position :=
  match e.state with
  | .idle => .idle
  | .clocking => .clocking e.idx e.ph
  | .quietWait => .quietWait

/-- The successor relation of R26 for the engine's own moves (all but `Reset`); staying where one is is no move. The
engine passes from `Clocking(15, High)` to `Idle` at once when `QUIET = 0` (R120) and from `Clocking` to `Idle` on a
`LineError`. -/
def successor : Position → Position → Bool
  | .idle, .clocking i ph => decide (i = 0) && decide (ph = .low)
  | .clocking i .low, .clocking j .high => decide (i = j)
  | .clocking i .high, .clocking j .low => decide (i.toNat + 1 = j.toNat)
  | .clocking i .high, .quietWait => decide (i = 15)
  | .clocking _ _, .idle => true
  | .quietWait, .idle => true
  | _, _ => false

/-- The ticks still to be counted until the `Rsp` of the scan in progress when no line fault occurs (R112): what the
present wait still needs and the waits after it. -/
def ticksLeft (e : Engine) : Nat :=
  match e.state, e.ph with
  | .idle, _ => 0
  | .clocking, .low => e.cnt.toNat + (2 * (15 - e.idx.toNat) + 1) * e.half.toNat + e.quiet.toNat
  | .clocking, .high => e.cnt.toNat + 2 * (15 - e.idx.toNat) * e.half.toNat + e.quiet.toNat
  | .quietWait, _ => e.cnt.toNat

/-- The number of `Tick` events in a list of events. -/
def tickCount : List Event → Nat
  | [] => 0
  | .tick _ :: es => tickCount es + 1
  | .reset :: es => tickCount es
  | .offer _ _ :: es => tickCount es

/-- No `Reset` event among the events. -/
def noReset : List Event → Bool
  | [] => true
  | .reset :: _ => false
  | .tick _ :: es => noReset es
  | .offer _ _ :: es => noReset es

/-- No event comes after the last `Tick` of the list. -/
def endsInTick (es : List Event) : Bool :=
  match es.getLast? with
  | none => true
  | some .reset => false
  | some (.tick _) => true
  | some (.offer _ _) => false

/-- Only the `Tick` events of a list of events. -/
def ticksOnly : List Event → List Event
  | [] => []
  | .tick l :: es => .tick l :: ticksOnly es
  | .reset :: es => ticksOnly es
  | .offer _ _ :: es => ticksOnly es

/-- The level of the clock line that the trace shows: the level of the last `ClkLow` or `ClkHigh`, and the level `l` it
had before the first (R111). -/
def lineLevel (l : Level) : List Stamped → Level
  | [] => l
  | ⟨_, .clkLow⟩ :: xs => lineLevel .low xs
  | ⟨_, .clkHigh⟩ :: xs => lineLevel .high xs
  | ⟨_, .sample _⟩ :: xs => lineLevel l xs
  | ⟨_, .rsp _⟩ :: xs => lineLevel l xs

end Sys2Proof.Machine
end

