-- ==== Sys2Proof/Machine/Blocking.lean ====
section
/-! DEFINITION. `SCAN` in the blocking form of R93, the source's own algorithm: the fixed sequence of 98 micro-operations
(R96) performed one after another, each wait counting its ticks (R98), so that the form can be looked at wherever it
rests. `step` does not use it; R108 says that it and the event-driven form agree, and a claim says so of these
definitions. -/

namespace Sys2Proof.Machine

/-- The six micro-operations of the clock cycle of channel `i`, in their order (R96). -/
def cycleOps (i : Nat) : List MicroOp :=
  [.driveLow i, .waitHalf i .low, .driveHigh i, .sample i, .waitHalf i .high, .next i]

/-- The fixed sequence of a scan (R96). -/
def scanOps : List MicroOp := (List.range 16).flatMap cycleOps ++ [.waitQuiet, .respond]

/-- Where the blocking form stands after a micro-operation. `left` is what is left of the ticks that are to occur. -/
inductive Progress where
  /-- The sequence goes on. -/
  | going (left : Nat) (e : Engine)
  /-- The ticks are used up and the sequencer rests in a wait. -/
  | resting (e : Engine)
  /-- A line fault ended the scan (R135). -/
  | aborted (e : Engine)
  deriving DecidableEq, Repr

/-- A wait while ticks occur: it is over when `CNT` is 0; otherwise the sequencer rests and every `Tick` decrements `CNT`
by one (R98). -/
def blockFor (left : Nat) (e : Engine) : Progress :=
  if e.cnt = 0 then .going left e
  else match left with
    | 0 => .resting e
    | left + 1 => blockFor left { e with now := e.now + 1, cnt := countDown e.cnt }

/-- `WaitTicks(n)`: `CNT <- n`, then block (R98). -/
def waitTicks (n : BitVec 48) (left : Nat) (e : Engine) : Progress := blockFor left { e with cnt := n }

/-- One micro-operation performed in an environment that answers line accesses by tick count, with `left` ticks to occur
(R97 to R103, R119, R122). The channel a micro-operation names is the one `IDX` holds. -/
def perform (p : Params) (env : Nat → Lines) (m : MicroOp) (left : Nat) (e : Engine) : Progress :=
  match m with
  | .driveLow _ =>
    if lineFault p (env e.now).errDrive then .aborted (raise .lineError e) else .going left (driveClk .low e)
  | .waitHalf _ ph => waitTicks (e.half.setWidth 48) left { e with ph := ph }
  | .driveHigh _ =>
    if lineFault p (env e.now).errDrive then .aborted (raise .lineError e) else .going left (driveClk .high e)
  | .sample _ =>
    if lineFault p (env e.now).errSample then .aborted (raise .lineError e)
    else .going left (storeSample (env e.now).data e)
  | .next i => .going left (if i < 15 then { e with idx := e.idx + 1 } else { e with state := .quietWait })
  | .waitQuiet => waitTicks e.quiet left e
  | .respond => .going left (respondFrame e)

/-- Micro-operations in a row, up to the rest at which the ticks are used up, the first abort, or the end. -/
def performAll (p : Params) (env : Nat → Lines) : List MicroOp → Nat → Engine → Engine
  | [], _, e => e
  | m :: ms, left, e =>
    match perform p env m left e with
    | .going left' e' => performAll p env ms left' e'
    | .resting e' => e'
    | .aborted e' => e'

/-- `SCAN()` of R93, `n` ticks after its acceptance: the registers, tick count and trace with which it rests there, or
with which it has ended by then. -/
def blockingAfter (p : Params) (env : Nat → Lines) (n : Nat) (e : Engine) : Engine :=
  performAll p env scanOps n { e with acc := 0, idx := 0, state := .clocking }

/-- `SCAN()` of R93 from acceptance to response: the ticks of a scan suffice for it. -/
def blockingScan (p : Params) (env : Nat → Lines) (e : Engine) : Engine :=
  blockingAfter p env (scanTicks e.half.toNat e.quiet.toNat) e

end Sys2Proof.Machine
end

