-- ==== Sys2Proof/Machine/Text.lean ====
section
/-! DEFINITION. The texts of the spec: the printed frame (R43), the assembler's lines (R68, R69) and the test directives
that stand for events and line levels (R70). None of it is a function of the block; `step` uses none of it. What R68
leaves open of the text is in log entry 13. -/

namespace Sys2Proof.Machine

/-- A frame as a binary numeral of 16 characters: leftmost bit 15, rightmost bit 0 (R43). -/
def printFrame (f : Frame) : List Char :=
  (List.range 16).map fun k => if f.getLsbD (15 - k) then '1' else '0'

/-- The instruction an assembler command stands for, if its operands fit 32 bits (R68). -/
def asmInstr : AsmCommand → Instr
  | .scan => .scan
  | .config t f q => .config (BitVec.ofNat 32 t) (BitVec.ofNat 32 f) (BitVec.ofNat 32 q)

/-- The command word of an assembler command; an operand that does not fit is an assembly error (R68). -/
def assemble (c : AsmCommand) : Option CmdWord := if c.wf then some (encode (asmInstr c)) else none

/-- The value of a decimal digit. -/
def decDigit (c : Char) : Option Nat :=
  if '0' ≤ c ∧ c ≤ '9' then some (c.toNat - '0'.toNat) else none

/-- The value of a hexadecimal digit, in either case. -/
def hexDigit (c : Char) : Option Nat :=
  if '0' ≤ c ∧ c ≤ '9' then some (c.toNat - '0'.toNat)
  else if 'a' ≤ c ∧ c ≤ 'f' then some (c.toNat - 'a'.toNat + 10)
  else if 'A' ≤ c ∧ c ≤ 'F' then some (c.toNat - 'A'.toNat + 10)
  else none

/-- Digits of a base read from the left, on top of the value `acc`. -/
def readDigits (base : Nat) (digit : Char → Option Nat) : Nat → List Char → Option Nat
  | acc, [] => some acc
  | acc, c :: cs =>
    match digit c with
    | some d => readDigits base digit (acc * base + d) cs
    | none => none

/-- A number: decimal, or hexadecimal after `0x`; `_` separates digits and has no meaning; at least one digit
(R10, R68). -/
def readNumber (cs : List Char) : Option Nat :=
  match cs.filter (· ≠ '_') with
  | [] => none
  | ['0', 'x'] => none
  | '0' :: 'x' :: ds => readDigits 16 hexDigit 0 ds
  | ds => readDigits 10 decDigit 0 ds

/-- A blank within a line. -/
def isBlank (c : Char) : Bool := c == ' ' || c == '\t'

/-- A text without the blanks at its two ends. -/
def trimBlanks (cs : List Char) : List Char := ((cs.dropWhile isBlank).reverse.dropWhile isBlank).reverse

/-- The parts of a text between the commas. -/
def splitCommas : List Char → List (List Char)
  | [] => [[]]
  | c :: cs =>
    if c = ',' then [] :: splitCommas cs
    else match splitCommas cs with
      | [] => [[c]]
      | part :: parts => (c :: part) :: parts

/-- What a line of the text is. -/
inductive AsmLine where
  /-- Nothing but blanks and a comment. -/
  | empty
  | command (c : AsmCommand)
  | error
  deriving DecidableEq, Repr

/-- The mnemonic of a line without its comment and outer blanks: up to the first blank. -/
def mnemonicOf (cs : List Char) : List Char := cs.takeWhile fun c => !isBlank c

/-- The operands of a line: what follows the mnemonic, between commas, without outer blanks. -/
def operandsOf (cs : List Char) : List (List Char) :=
  (splitCommas (cs.dropWhile fun c => !isBlank c)).map trimBlanks

/-- One line of the text of R68: `SCAN`, or `CONFIG` and three operands, and an optional comment after `;`. There is no
pseudo-instruction (R69). -/
def readLine (line : List Char) : AsmLine :=
  let body := trimBlanks (line.takeWhile (· ≠ ';'))
  if body = [] then .empty
  else if body = ['S', 'C', 'A', 'N'] then .command .scan
  else if mnemonicOf body = ['C', 'O', 'N', 'F', 'I', 'G'] then
    match (operandsOf body).map readNumber with
    | [some t, some f, some q] => .command (.config t f q)
    | _ => .error
  else .error

/-- The test directives of R70 that stand for events: `RESET` and `TICKS n` (in an environment from tick count `t`). -/
inductive Directive where
  | reset
  | ticks (n : Nat)
  deriving DecidableEq, Repr

/-- The events a directive stands for (R70). -/
def directiveEvents (env : Nat → Lines) (t : Nat) : Directive → List Event
  | .reset => [.reset]
  | .ticks n => tickEvents env t n

/-- `DATA pattern` and `LINEERR at <access>` for the scan accepted at `t0` on an engine with half period `half`: the
levels its samples meet (bit `i` of the pattern at the sample of channel `i`, 1 = high) and `line_err = 1` at access
number `err`, 0 at every other (R70). -/
def scriptLines (half t0 : Nat) (pattern : Frame) (err : Option Nat) (now : Nat) : Lines :=
  let here (read : Bool) : Bool :=
    match err with
    | none => false
    | some n => decide (now = t0 + accessOffset half n) && (decide (accessKind n = .read) == read)
  { errDrive := here false, errSample := here true,
    data := levelOfBit (pattern.getLsbD ((now - t0) / half / 2)) }

end Sys2Proof.Machine
end

