-- ==== Sys2Proof/Safety.lean ====
section
/-! DEFINITION. What counts as a safe state and a final run, in the terms the statements use: the invariants of R15 to
R27, of the response word (R66), of the clock line and the trace (R21, R49, R111), what happens in a run, and the ends of
a run (R145, R179). -/

namespace Sys2Proof.Machine

/-- `k` steps of the machine, stopping at a fault or a refusal: `Host.Core.run` of this machine, with `step` by name. -/
def runSteps : Nat → State → Host.Outcome State Fault Refusal
  | 0, s => .next s
  | k + 1, s =>
    match step s with
    | .next t => runSteps k t
    | .fault r => .fault r
    | .refused r => .refused r

/-- The events that `k` steps of the machine process, in their order, wherever they come from: the present instant, the
listed ones or free ones. A step that presents an instant processes none. -/
def happened : Nat → State → List Event
  | 0, _ => []
  | k + 1, s =>
    match step s with
    | .next t => s.pending.head?.toList ++ happened k t
    | .fault _ => []
    | .refused _ => []

/-- How many steps it takes to present the instants of a list and to process their events. -/
def stepsFor (is : List Instant) : Nat := is.length + (is.flatMap eventsOf).length

/-- The invariant of the configuration registers (R17). -/
def ConfigInv (e : Engine) : Prop :=
  (e.configured = true ∧ 1 ≤ e.half.toNat) ∨ (e.configured = false ∧ e.half = 0 ∧ e.quiet = 0)

/-- The legal values of `HALF` and `QUIET` on a configured engine (R15, R16). -/
def ConfigBounds (p : Params) (e : Engine) : Prop :=
  e.configured = true →
    1 ≤ e.half.toNat ∧ e.half.toNat ≤ (2 ^ 32 - 1) / (2 * p.fMin) ∧ e.quiet.toNat ≤ 18446744065119

/-- The invariant of the resting positions: a wait in progress has something left to count (R27), and in `Idle` the
counter is 0 (R19); a scan runs only on a configured engine (R62). -/
def RestInv (e : Engine) : Prop :=
  (e.state = .idle → e.cnt = 0) ∧ (e.state ≠ .idle → 1 ≤ e.cnt.toNat ∧ e.configured = true)

/-- A wait in progress is no longer than what loaded it (R98, R119). -/
def WaitBounds (e : Engine) : Prop :=
  (e.state = .clocking → e.cnt.toNat ≤ e.half.toNat) ∧ (e.state = .quietWait → e.cnt.toNat ≤ e.quiet.toNat)

/-- The clock line in each position: low in the first half of a cycle, high in the second and in the quiet wait
(R21, R25, R119), which comes after channel 15. -/
def ClockInv (e : Engine) : Prop :=
  (e.state = .clocking → e.ph = .low → e.clk = .low) ∧ (e.state = .clocking → e.ph = .high → e.clk = .high) ∧
    (e.state = .quietWait → e.clk = .high ∧ e.idx = 15 ∧ e.ph = .high)

/-- While the clock runs, the bits of channels not yet sampled are 0 (R18, R100). -/
def AccInv (e : Engine) : Prop :=
  e.state = .clocking → ∀ j, j < 16 → (if e.ph = .low then e.idx.toNat ≤ j else e.idx.toNat < j) →
    e.acc.getLsbD j = false

/-- The stamps of a trace never fall and none lies after `now` (R49, R111). -/
def StampsOrdered (e : Engine) : Prop :=
  e.trace.Pairwise (fun x y => x.tick ≤ y.tick) ∧ ∀ x ∈ e.trace, x.tick ≤ e.now

/-- The clock line is at the level its last drive gave it, and at the reset level before the first (R21, R111). -/
def WaveformInv (p : Params) (e : Engine) : Prop := e.clk = lineLevel p.clkReset e.trace

/-- `RSP` holds the last response, and its reset value before the first (R20, R32). -/
def ResponseInv (e : Engine) : Prop := e.rsp = (responses e).getLast?.getD 0

/-- All of it together. -/
def EngineInv (p : Params) (e : Engine) : Prop :=
  ConfigInv e ∧ ConfigBounds p e ∧ RestInv e ∧ WaitBounds e ∧ ClockInv e ∧ AccInv e ∧ StampsOrdered e ∧
    WaveformInv p e ∧ ResponseInv e ∧ RspWord.wf e.rsp = true

/-- `Tick` events occur infinitely often in the run from `s`: after however many steps, there is another one to come
(R145 (2)). -/
def TicksForever (s : State) : Prop :=
  ∀ n, ∃ k t l, n ≤ k ∧ runSteps k s = .next t ∧ t.pending.head? = some (.tick l)

/-- The word `w` is on offer: it stands on the command port and has not been accepted (R31). -/
def OnOffer (s : State) (w : CmdWord) : Prop := s.port = some w

/-- The run so far is final: `Idle` and no command on offer (R179). -/
def Final (s : State) : Prop := s.eng.state = .idle ∧ ∀ w, ¬ OnOffer s w

/-- The run is not over: a scan is in progress (R179). -/
def NotOver (s : State) : Prop := s.eng.state ≠ .idle

/-- A `SCAN` is on offer to an engine in `Idle` that is not configured (R62, R139). -/
def BlockedOn (s : State) (w : CmdWord) : Prop :=
  s.eng.state = .idle ∧ s.eng.configured = false ∧ OnOffer s w ∧ decode w = .scan

/-- The host keeps `w` on offer for `k` steps: it neither withdraws it nor offers another word (R31, R170). -/
def KeepsOffering (k : Nat) (s : State) (w : CmdWord) : Prop :=
  ∀ j t, j ≤ k → runSteps j s = .next t → OnOffer t w

/-- The run is stuck as far as `k` steps show it. -/
def StuckFor (k : Nat) (s : State) (w : CmdWord) : Prop := BlockedOn s w ∧ KeepsOffering k s w

/-- The run is stuck: a `SCAN` is on offer with `CONFIGURED = 0` and the host never withdraws it (R62, R139, R179). -/
def StuckOn (s : State) (w : CmdWord) : Prop := ∀ k, StuckFor k s w

end Sys2Proof.Machine
end

