-- ==== Sys2Proof/Certificates/Slice0/Obligations.lean ====
section
/-! DEFINITION. The statements about the model, each for a numbered rule of the spec or derived from several. -/

open Sys2Proof Sys2Proof.Machine

/-! ## Encoding -/

/-- R61: what the decoder and the encoder are, that decoding an encoded command gives it back, and that encoding a decoded
word gives it back exactly for words whose ignored bits are zero. -/
def Obligations.DecodeAndEncodeAgree : Prop :=
  (∀ w : CmdWord, w.getLsbD 96 = true →
      decode w = .config (w.extractLsb' 0 32) (w.extractLsb' 32 32) (w.extractLsb' 64 32)) ∧
    (∀ w : CmdWord, w.getLsbD 96 = false → decode w = .scan) ∧
    (∀ t f q : Operand, encode (.config t f q) = 0#31 ++ 1#1 ++ q ++ f ++ t) ∧ encode .scan = 0 ∧
    (∀ i : Instr, decode (encode i) = i) ∧
    (∀ w : CmdWord, encode (decode w) = w ↔
      w.extractLsb' 97 31 = 0 ∧ (w.getLsbD 96 = false → w.extractLsb' 0 96 = 0))

/-- R59, R60: bits 127:97 never matter, and with `op = 0` bits 95:0 do not matter either: every such word means `SCAN`. -/
def Obligations.IgnoredBitsDoNotMatter : Prop :=
  (∀ w w' : CmdWord, w.extractLsb' 0 97 = w'.extractLsb' 0 97 → decode w = decode w') ∧
    (∀ w : CmdWord, w.getLsbD 96 = false → decode w = .scan) ∧
    (∀ w w' : CmdWord, w.getLsbD 96 = false → w'.getLsbD 96 = false → decode w = decode w')

/-- R71: the two rows of the opcode map partition all words, and the row a word selects is the one it decodes to. -/
def Obligations.OpcodeMapPartitionsWords : Prop :=
  ∀ w : CmdWord,
    (scanRow.selects w = true ∧ configRow.selects w = false ∧ decode w = .scan) ∨
      (scanRow.selects w = false ∧ configRow.selects w = true ∧ ∃ t f q, decode w = .config t f q)

/-- Words of the spec's encoding vectors (95_test_vectors.md section 2.1) and what they decode to. -/
def Obligations.VectorWordsDecode : Prop :=
  decode 0x00000000000000000000000000000000 = .scan ∧ decode 0x00000000FFFFFFFFFFFFFFFFFFFFFFFF = .scan ∧
    decode 0xFFFFFFFE000000000000000000000000 = .scan ∧
    decode 0x00000001000003E800002710000F4240 = .config 1000000 10000 1000 ∧
    decode 0xFFFFFFFF000003E800002710000F4240 = .config 1000000 10000 1000 ∧
    decode 0x0000000300000005000003E8000007D0 = .config 2000 1000 5

/-- R68: an assembler command with operands that fit is the word whose fields are its operands; a larger operand is an
assembly error; `SCAN` is 128 zeros. -/
def Obligations.AssemblerPlacesOperands : Prop :=
  assemble .scan = some 0 ∧
    (∀ t f q : Nat, t < 2 ^ 32 → f < 2 ^ 32 → q < 2 ^ 32 → ∃ w, assemble (.config t f q) = some w ∧
      cmdOpBit w = true ∧ (cmdTickRate w).toNat = t ∧ (cmdTargetFreq w).toNat = f ∧ (cmdQuietUs w).toNat = q ∧
      CmdWord.canonical w = true) ∧
    (∀ t f q : Nat, 2 ^ 32 ≤ t ∨ 2 ^ 32 ≤ f ∨ 2 ^ 32 ≤ q → assemble (.config t f q) = none)

/-- R43: a printed frame has 16 characters, the leftmost bit 15 and the rightmost bit 0; channel 3 alone prints as
`0000000000001000`; printing loses nothing. -/
def Obligations.PrintedFrameShowsEveryBit : Prop :=
  (∀ f : Frame, (printFrame f).length = 16) ∧
    (∀ (f : Frame) (i : Nat), i < 16 → (printFrame f)[15 - i]? = some (if f.getLsbD i then '1' else '0')) ∧
    printFrame 0x0008 = List.replicate 12 '0' ++ ['1', '0', '0', '0'] ∧
    (∀ f g : Frame, printFrame f = printFrame g → f = g)

/-- R64, R65, R66: the fields of every response word, and the four kinds of word. -/
def Obligations.ResponseWordsAreFourKinds : Prop :=
  (∀ (op : Op) (st : Status) (f : Frame), (responseWord op st f).extractLsb' 19 13 = 0 ∧
      (responseWord op st f).extractLsb' 18 1 = opBit op ∧ (responseWord op st f).extractLsb' 16 2 = statusCode st ∧
      (responseWord op st f).extractLsb' 0 16 = f) ∧
    (∀ f : Frame, responseWord .scan .ok f = f.setWidth 32) ∧ responseWord .scan .lineError 0 = 0x00020000 ∧
    responseWord .config .ok 0 = 0x00040000 ∧ responseWord .config .frequencyOutOfRange 0 = 0x00050000

/-! ## Steps, events and acceptance -/

/-- A step at an offered word is `exec` of the decoded instruction; around it the step takes the event away, presents
the line levels of the reaction and has the word on the port (log entry 22), from which acceptance takes it. -/
def Obligations.StepRunsOfferedCommand : Prop :=
  ∀ (s : State) (w : CmdWord) (l : Lines) (es : List Event), s.pending = .offer w l :: es →
    step s = exec (decode w) { s with pending := es, line := l, port := some w }

/-- A step at a `Tick` or a `Reset` is its reaction; with no event left the environment presents its next listed instant,
and with none listed a free one, with a `Tick` once the gap between the free ticks is over (the model's form of the
inputs, log entries 1, 2, 18, 22). That a `Reset` leaves the environment is the model's reading, log entry 4; that the
trace begins again with it, empty, is its choice, log entry 5. -/
def Obligations.StepTakesEventsInOrder : Prop :=
  (∀ (s : State) (l : Lines) (es : List Event), s.pending = .tick l :: es →
      step s = .next { s with pending := es, line := l, eng := onTick Config.params l s.eng }) ∧
    (∀ (s : State) (es : List Event), s.pending = .reset :: es →
      step s = .next { s with pending := es, eng := Engine.resetWith Config.params }) ∧
    (∀ (s : State) (i : Instant) (is : List Instant), s.pending = [] → s.inputs = i :: is →
      step s = .next { s with
        pending := eventsOf i, port := if i.cmdValid then some i.cmd else none, inputs := is,
        instants := s.instants + 1 }) ∧
    (∀ (s : State) (i : Instant) (n : Nat), s.pending = [] → s.inputs = [] → tickDue s = n + 1 →
      i = Config.freeInstant s.instants →
      step s = .next { s with
        pending := eventsOf i, port := if i.cmdValid then some i.cmd else none, instants := s.instants + 1,
        tickWithin := some n }) ∧
    (∀ (s : State) (i : Instant), s.pending = [] → s.inputs = [] → tickDue s = 0 →
      i = Config.freeInstant s.instants →
      step s = .next { s with
        pending := .tick i.tickLine :: (if i.cmdValid then [.offer i.cmd i.cmdLine] else []),
        port := if i.cmdValid then some i.cmd else none, instants := s.instants + 1, tickWithin := none })

/-- Every step answers a next state: nothing stops the machine. That is the model's reading of R129 and R141, log entry
12; that a step answers one for a waiting word too, where R139 has no step, is log entry 8. -/
def Obligations.EveryStepAnswersNext : Prop := ∀ s : State, ∃ t, step s = .next t

/-- R162: at an instant with a tick and an offered word the tick's reaction comes first and the word meets the state it
left. -/
def Obligations.TickComesBeforeCommand : Prop :=
  ∀ (s : State) (i : Instant) (is : List Instant), s.pending = [] → s.inputs = i :: is → i.rst = false →
    i.tick = true → i.cmdValid = true →
    runSteps 3 s = exec (decode i.cmd)
      { s with pending := [], inputs := is, instants := s.instants + 1, line := i.cmdLine, port := some i.cmd,
               eng := onTick Config.params i.tickLine s.eng }

/-- R156: a `Reset` overrides every other event of its instant and leaves every register at its reset value, with no
`Rsp` event. That a tick and an offered word of that instant have no effect is the model's reading, log entry 4; that the
trace begins again, empty, is its choice, log entry 5; an offered word stays on the port, log entry 22. -/
def Obligations.ResetOverridesItsInstant : Prop :=
  ∀ (s : State) (i : Instant) (is : List Instant), s.pending = [] → s.inputs = i :: is → i.rst = true →
    ∃ t, runSteps 2 s = .next t ∧ t.pending = [] ∧ t.inputs = is ∧ t.eng = Engine.resetWith Config.params ∧
      t.eng.trace = [] ∧ busy t.eng = false ∧ (∀ w, cmdReady t.eng w = cmdOpBit w) ∧
      t.port = if i.cmdValid then some i.cmd else none

/-- R13, R156: the reset value of every register; `NOW` is 0; only a `CONFIG` is accepted. -/
def Obligations.ResetValuesOfRegisters : Prop :=
  State.reset.eng.configured = false ∧ State.reset.eng.half = 0 ∧ State.reset.eng.quiet = 0 ∧
    State.reset.eng.state = .idle ∧ State.reset.eng.idx = 0 ∧ State.reset.eng.ph = .low ∧ State.reset.eng.cnt = 0 ∧
    State.reset.eng.acc = 0 ∧ State.reset.eng.clk = .high ∧ State.reset.eng.rsp = 0 ∧ State.reset.eng.now = 0 ∧
    ∀ w, cmdReady State.reset.eng w = cmdOpBit w

/-- R62: when a word is accepted, and that the meaning of the decoded instruction asks the same. -/
def Obligations.AcceptanceOfCommands : Prop :=
  ∀ (e : Engine) (w : CmdWord),
    (cmdReady e w = true ↔ e.state = .idle ∧ (w.getLsbD 96 = true ∨ e.configured = true)) ∧
      accepts e (decode w) = cmdReady e w

/-- R31, R62, R107: a command that is not accepted has no effect: every command during a scan, and `SCAN` on an
unconfigured engine. That `exec` and the step answer a state all the same, with the word still on the port, is the
model's form of the waiting, log entries 8 and 22. -/
def Obligations.UnacceptedCommandHasNoEffect : Prop :=
  (∀ (s : State) (i : Instr), s.eng.state ≠ .idle → exec i s = .next s) ∧
    (∀ s : State, s.eng.configured = false → exec .scan s = .next s) ∧
    (∀ (s : State) (w : CmdWord) (l : Lines) (es : List Event), s.pending = .offer w l :: es →
      cmdReady s.eng w = false → step s = .next { s with pending := es, line := l, port := some w })

/-- The host's probe of one instruction: the word is on offer to an engine that accepts it, so that the next step runs it
(the model's choice, log entry 9). -/
def Obligations.ProbedWordIsRun : Prop :=
  ∀ (s : State) (nbits w : Nat), nbits ≤ 128 →
    cmdReady (s.withFetchWord nbits w).eng (BitVec.ofNat 128 (w % 2 ^ nbits)) = true ∧
      ∃ i, decodeTableWord nbits w = some i ∧
        step (s.withFetchWord nbits w) =
          exec i { s with
            eng := (s.withFetchWord nbits w).eng, line := Lines.calm,
            port := some (BitVec.ofNat 128 (w % 2 ^ nbits)) }

/-! ## CONFIG -/

/-- R76, R84: `CONFIG` with valid operands in `Idle` completes: `HALF`, `QUIET`, `CONFIGURED`, `RSP` and the trace, and
nothing else of the engine; of the rest at most the command port, from which the word is taken (log entry 22). -/
def Obligations.ConfigWritesDerivedConstants : Prop :=
  ∀ (s : State) (t f q : Operand), s.eng.state = .idle → 1000 ≤ f.toNat → f.toNat ≤ 512000 →
    2 * f.toNat ≤ t.toNat →
    ∃ t', exec (.config t f q) s = .next t' ∧
      t' = { s with port := t'.port, eng := { s.eng with
        half := BitVec.ofNat 32 (t.toNat / (2 * f.toNat))
        quiet := BitVec.ofNat 48 (q.toNat * t.toNat / 1000000)
        configured := true
        rsp := 0x00040000
        trace := s.eng.trace ++ [⟨s.eng.now, .rsp 0x00040000⟩] } }

/-- R85, R131: `CONFIG` with other operands in `Idle` fails: the configuration is cleared, `RSP` and the trace report it,
and nothing else changes but the command port, from which the word is taken (log entry 22); the engine accepts a `CONFIG`,
and only a `CONFIG`, at once (R132). -/
def Obligations.ConfigFailureClearsConfiguration : Prop :=
  ∀ (s : State) (t f q : Operand), s.eng.state = .idle →
    f.toNat < 1000 ∨ 512000 < f.toNat ∨ t.toNat < 2 * f.toNat →
    ∃ t', exec (.config t f q) s = .next t' ∧
      t' = { s with port := t'.port, eng := { s.eng with
        half := 0
        quiet := 0
        configured := false
        rsp := 0x00050000
        trace := s.eng.trace ++ [⟨s.eng.now, .rsp 0x00050000⟩] } } ∧
      ∀ w, cmdReady t'.eng w = cmdOpBit w

/-- R78, R79, R86: no width truncates a derived constant: as numbers the registers hold the exact quotients. -/
def Obligations.ConfigArithmeticIsExact : Prop :=
  ∀ (s : State) (t f q : Operand), s.eng.state = .idle → 1000 ≤ f.toNat → f.toNat ≤ 512000 →
    2 * f.toNat ≤ t.toNat →
    ∃ t', exec (.config t f q) s = .next t' ∧ t'.eng.half.toNat = t.toNat / (2 * f.toNat) ∧
      t'.eng.quiet.toNat = q.toNat * t.toNat / 1000000

/-- R88: `CONFIG` succeeds if and only if the frequency is in the band and `t >= 2 f`; `HALF` is then at least 1;
`quiet_duration` never affects success. -/
def Obligations.ConfigSucceedsExactlyWhenValid : Prop :=
  ∀ (s : State) (t f q : Operand), s.eng.state = .idle →
    ∃ t', exec (.config t f q) s = .next t' ∧
      (t'.eng.configured = true ↔ 1000 ≤ f.toNat ∧ f.toNat ≤ 512000 ∧ 2 * f.toNat ≤ t.toNat) ∧
      (t'.eng.rsp = 0x00040000 ↔ t'.eng.configured = true) ∧ (t'.eng.rsp = 0x00050000 ↔ t'.eng.configured = false) ∧
      (t'.eng.configured = true → 1 ≤ t'.eng.half.toNat)

/-- R80: the half period rounds to 0 exactly when `t < 2 f`. -/
def Obligations.HalfPeriodZeroWhenTooFast : Prop :=
  ∀ t f : Nat, 1 ≤ f → (halfPeriod t f = 0 ↔ t < 2 * f)

/-- R89: the clock produced is at or above the target, and equal to it exactly when `2 f` divides `t`. -/
def Obligations.ProducedClockAtOrAboveTarget : Prop :=
  ∀ t f : Nat, 1 ≤ f → 2 * f ≤ t →
    (f : ℚ) ≤ producedHz t (halfPeriod t f) ∧ (producedHz t (halfPeriod t f) = (f : ℚ) ↔ 2 * f ∣ t)

/-- R90: the quiet wait falls short of the requested microseconds by less than one tick. -/
def Obligations.QuietShortfallBelowOneTick : Prop :=
  ∀ q t : Nat, quietPeriod q t * 1000000 ≤ q * t ∧ q * t < (quietPeriod q t + 1) * 1000000

/-- R87: a `CONFIG` replaces the previous configuration entirely: after it nothing but the trace tells whether another
`CONFIG` came before. -/
def Obligations.ConfigReplacesConfiguration : Prop :=
  ∀ (s : State) (t f q t₂ f₂ q₂ : Operand), s.eng.state = .idle →
    ∃ a b c, exec (.config t f q) s = .next a ∧ exec (.config t₂ f₂ q₂) a = .next b ∧
      exec (.config t₂ f₂ q₂) s = .next c ∧ b = { c with eng := { c.eng with trace := b.eng.trace } }

/-! ## SCAN and the reactions to ticks -/

/-- R93, R95, R97: `SCAN` on a configured engine in `Idle` without a line fault completes its reaction: `ACC` and `IDX`
cleared, the clock line driven low, the first half-period wait begun; the word leaves the port (log entry 22); nothing else
changes. -/
def Obligations.ScanBeginsFirstCycle : Prop :=
  ∀ s : State, s.eng.state = .idle → s.eng.configured = true → s.line.errDrive = false →
    exec .scan s = .next
      { s with port := none, eng := { s.eng with
        acc := 0
        idx := 0
        state := .clocking
        ph := .low
        cnt := s.eng.half.setWidth 48
        clk := .low
        trace := s.eng.trace ++ [⟨s.eng.now, .clkLow⟩] } }

/-- R97, R134, R135: a line fault at the first access aborts the scan at once: `CLK` and `PH` keep their values; the word
leaves the port (log entry 22). -/
def Obligations.ScanAbortsAtFirstDrive : Prop :=
  ∀ s : State, s.eng.state = .idle → s.eng.configured = true → s.line.errDrive = true →
    exec .scan s = .next
      { s with port := none, eng := { s.eng with
        acc := 0
        idx := 0
        state := .idle
        cnt := 0
        rsp := 0x00020000
        trace := s.eng.trace ++ [⟨s.eng.now, .rsp 0x00020000⟩] } }

/-- R105: a `Tick` in `Idle` changes nothing but `NOW`. -/
def Obligations.TickInIdleOnlyCountsTime : Prop :=
  ∀ (s : State) (l : Lines) (es : List Event), s.pending = .tick l :: es → s.eng.state = .idle →
    step s = .next { s with pending := es, line := l, eng := { s.eng with now := s.eng.now + 1 } }

/-- R19, R98, R104: a `Tick` in a wait that is not over decrements `CNT` by one and changes nothing else. -/
def Obligations.TickCountsDownTheWait : Prop :=
  ∀ (s : State) (l : Lines) (es : List Event), s.pending = .tick l :: es → s.eng.state ≠ .idle →
    2 ≤ s.eng.cnt.toNat →
    ∃ t, step s = .next t ∧ t = { s with pending := es, line := l, eng := { s.eng with
        now := s.eng.now + 1, cnt := t.eng.cnt } } ∧ t.eng.cnt.toNat + 1 = s.eng.cnt.toNat

/-- R99, R100, R101: the tick that ends the first half-period wait drives the clock high, samples the data line once into
bit `IDX` of `ACC`, active when low, and begins the second half-period wait. -/
def Obligations.LowWaitEndsInSample : Prop :=
  ∀ (s : State) (l : Lines) (es : List Event), s.pending = .tick l :: es → s.eng.state = .clocking →
    s.eng.ph = .low → s.eng.cnt = 1 → l.errDrive = false → l.errSample = false →
    ∃ t, step s = .next t ∧
      t = { s with pending := es, line := l, eng := { s.eng with
        now := s.eng.now + 1
        clk := .high
        acc := t.eng.acc
        ph := .high
        cnt := s.eng.half.setWidth 48
        trace := s.eng.trace ++ [⟨s.eng.now + 1, .clkHigh⟩, ⟨s.eng.now + 1, .sample l.data⟩] } } ∧
      (t.eng.acc.getLsbD s.eng.idx.toNat = true ↔ l.data = .low) ∧
      ∀ j, j ≠ s.eng.idx.toNat → t.eng.acc.getLsbD j = s.eng.acc.getLsbD j

/-- R103, R97: the tick that ends the second half-period wait of a channel below 15 goes to the next channel and drives
the clock low. -/
def Obligations.HighWaitEndsInNextChannel : Prop :=
  ∀ (s : State) (l : Lines) (es : List Event), s.pending = .tick l :: es → s.eng.state = .clocking →
    s.eng.ph = .high → s.eng.cnt = 1 → s.eng.idx.toNat < 15 → l.errDrive = false →
    ∃ t, step s = .next t ∧
      t = { s with pending := es, line := l, eng := { s.eng with
        now := s.eng.now + 1
        idx := t.eng.idx
        clk := .low
        ph := .low
        cnt := s.eng.half.setWidth 48
        trace := s.eng.trace ++ [⟨s.eng.now + 1, .clkLow⟩] } } ∧
      t.eng.idx.toNat = s.eng.idx.toNat + 1

/-- R103, R119: the tick that ends the second half-period wait of channel 15 begins the quiet wait; no line is
touched. -/
def Obligations.LastCycleEndsInQuietWait : Prop :=
  ∀ (s : State) (l : Lines) (es : List Event), s.pending = .tick l :: es → s.eng.state = .clocking →
    s.eng.ph = .high → s.eng.cnt = 1 → s.eng.idx = 15 → s.eng.quiet ≠ 0 →
    step s = .next { s with pending := es, line := l, eng := { s.eng with
      now := s.eng.now + 1, state := .quietWait, cnt := s.eng.quiet } }

/-- R120: with `QUIET = 0` the response comes in the reaction that ends the last half-period wait. -/
def Obligations.ZeroQuietWaitRespondsAtOnce : Prop :=
  ∀ (s : State) (l : Lines) (es : List Event), s.pending = .tick l :: es → s.eng.state = .clocking →
    s.eng.ph = .high → s.eng.cnt = 1 → s.eng.idx = 15 → s.eng.quiet = 0 →
    step s = .next { s with pending := es, line := l, eng := { s.eng with
      now := s.eng.now + 1
      state := .idle
      cnt := 0
      rsp := s.eng.acc.setWidth 32
      trace := s.eng.trace ++ [⟨s.eng.now + 1, .rsp (s.eng.acc.setWidth 32)⟩] } }

/-- R122: the tick that ends the quiet wait reports the frame, whole, and the engine is `Idle`. -/
def Obligations.QuietWaitEndsInResponse : Prop :=
  ∀ (s : State) (l : Lines) (es : List Event), s.pending = .tick l :: es → s.eng.state = .quietWait →
    s.eng.cnt = 1 →
    step s = .next { s with pending := es, line := l, eng := { s.eng with
      now := s.eng.now + 1
      state := .idle
      cnt := 0
      rsp := s.eng.acc.setWidth 32
      trace := s.eng.trace ++ [⟨s.eng.now + 1, .rsp (s.eng.acc.setWidth 32)⟩] } }

/-- R134, R135, R137: a line fault in a tick's reaction, at the drive high, at the read after it, and at the drive low of
the next channel: the access and all after it are not performed, what came before it stands. -/
def Obligations.LineFaultInTickAborts : Prop :=
  (∀ (s : State) (l : Lines) (es : List Event), s.pending = .tick l :: es → s.eng.state = .clocking →
      s.eng.ph = .low → s.eng.cnt = 1 → l.errDrive = true →
      step s = .next { s with pending := es, line := l, eng := { s.eng with
        now := s.eng.now + 1
        state := .idle
        cnt := 0
        rsp := 0x00020000
        trace := s.eng.trace ++ [⟨s.eng.now + 1, .rsp 0x00020000⟩] } }) ∧
    (∀ (s : State) (l : Lines) (es : List Event), s.pending = .tick l :: es → s.eng.state = .clocking →
      s.eng.ph = .low → s.eng.cnt = 1 → l.errDrive = false → l.errSample = true →
      step s = .next { s with pending := es, line := l, eng := { s.eng with
        now := s.eng.now + 1
        state := .idle
        cnt := 0
        clk := .high
        rsp := 0x00020000
        trace := s.eng.trace ++ [⟨s.eng.now + 1, .clkHigh⟩, ⟨s.eng.now + 1, .rsp 0x00020000⟩] } }) ∧
    (∀ (s : State) (l : Lines) (es : List Event), s.pending = .tick l :: es → s.eng.state = .clocking →
      s.eng.ph = .high → s.eng.cnt = 1 → s.eng.idx.toNat < 15 → l.errDrive = true →
      ∃ t, step s = .next t ∧ t = { s with pending := es, line := l, eng := { s.eng with
        now := s.eng.now + 1
        idx := t.eng.idx
        state := .idle
        cnt := 0
        rsp := 0x00020000
        trace := s.eng.trace ++ [⟨s.eng.now + 1, .rsp 0x00020000⟩] } } ∧
        t.eng.idx.toNat = s.eng.idx.toNat + 1)

/-- R18, R100: writing a bit of `ACC` writes that bit and no other. -/
def Obligations.FrameBitWriteIsLocal : Prop :=
  ∀ (f : Frame) (i j : Nat) (b : Bool), i < 16 →
    (setFrameBit f i b).getLsbD j = if j = i then b else f.getLsbD j

/-- R8, R133: without the `line_err` input no level on it has an effect. -/
def Obligations.NoLineDriverNoLineFault : Prop :=
  ∀ (p : Params) (l : Lines) (e : Engine), p.hasLineErr = false →
    onTick p l e = onTick p { l with errDrive := false, errSample := false } e ∧
      startScan p l e = startScan p { l with errDrive := false, errSample := false } e

/-! ## Invariants that every step keeps -/

/-- All invariants hold at reset. -/
def Obligations.ResetMeetsEveryInvariant : Prop := EngineInv Config.params State.reset.eng

/-- R17: every step keeps the invariant of the configuration registers, and it holds at reset. -/
def Obligations.ConfigurationInvariantKept : Prop :=
  ConfigInv State.reset.eng ∧ ∀ s t : State, ConfigInv s.eng → step s = .next t → ConfigInv t.eng

/-- R15, R16: every step keeps the legal ranges of `HALF` and `QUIET`. -/
def Obligations.ConfigurationRangesKept : Prop :=
  ∀ s t : State, ConfigBounds Config.params s.eng → step s = .next t → ConfigBounds Config.params t.eng

/-- R27: `CNT >= 1` whenever the engine rests in a wait (and `CNT = 0` in `Idle`, R19) holds at reset, and every step keeps
it, beside R17. -/
def Obligations.RestingInvariantKept : Prop :=
  RestInv State.reset.eng ∧ ∀ s t : State, ConfigInv s.eng → RestInv s.eng → step s = .next t → RestInv t.eng

/-- R98, R119: every step keeps a wait no longer than what loaded it. -/
def Obligations.WaitBoundsKept : Prop :=
  ∀ s t : State, WaitBounds s.eng → step s = .next t → WaitBounds t.eng

/-- R21, R25, R119: every step keeps the clock line low in the first half of a cycle, high in the second half and in the
quiet wait. -/
def Obligations.ClockLevelOfPositionKept : Prop :=
  ∀ s t : State, ClockInv s.eng → step s = .next t → ClockInv t.eng

/-- R18, R100: every step keeps the bits of channels not yet sampled 0 while the clock runs. -/
def Obligations.UnsampledBitsStayZero : Prop :=
  ∀ s t : State, AccInv s.eng → step s = .next t → AccInv t.eng

/-- R49, R111: every step keeps the stamps of the trace in order. -/
def Obligations.TraceStampsStayOrdered : Prop :=
  ∀ s t : State, StampsOrdered s.eng → step s = .next t → StampsOrdered t.eng

/-- R21, R111: every step keeps the clock line at the level the trace shows. -/
def Obligations.ClockLineFollowsTrace : Prop :=
  ∀ s t : State, WaveformInv Config.params s.eng → step s = .next t → WaveformInv Config.params t.eng

/-- R20, R66: every step keeps `RSP` equal to the last response announced (its reset value before the first), and one of
the five kinds of word. -/
def Obligations.ResponseRegisterKept : Prop :=
  ∀ s t : State, ResponseInv s.eng → RspWord.wf s.eng.rsp = true → step s = .next t →
    ResponseInv t.eng ∧ RspWord.wf t.eng.rsp = true

/-! ## Rules about the whole machine -/

/-- R26: unless the event is a `Reset`, a step leaves the sequencer where it is or moves it along an edge of the successor
relation, and along the edge to `Idle` only at the end of a scan or on a line fault; a `Reset` leads to `Idle` from
everywhere. Every edge has its event: an offered word moves the sequencer only as an accepted `SCAN`, from `Idle`; a tick
moves it only out of a wait that is over, and where to. That a tick at `CNT = 0` outside `Idle`, which no run reaches
(R27), ends the wait as at `CNT = 1` is the model's choice, log entry 6. -/
def Obligations.SequencerFollowsSuccessors : Prop :=
  (∀ s t : State, s.pending.head? ≠ some .reset → step s = .next t →
      positionOf t.eng = positionOf s.eng ∨
        (successor (positionOf s.eng) (positionOf t.eng) = true ∧
          ∀ i ph, positionOf s.eng = .clocking i ph → positionOf t.eng = .idle →
            t.eng.rsp = 0x00020000 ∨ (i = 15 ∧ ph = .high ∧ s.eng.quiet = 0))) ∧
    (∀ s t : State, s.pending.head? = some .reset → step s = .next t → positionOf t.eng = .idle) ∧
    (∀ s t : State, s.pending = [] → step s = .next t → positionOf t.eng = positionOf s.eng) ∧
    (∀ (s t : State) (w : CmdWord) (l : Lines), s.pending.head? = some (.offer w l) → step s = .next t →
      (decode w = .scan ∧ cmdReady s.eng w = true ∧ positionOf s.eng = .idle ∧
        positionOf t.eng = if l.errDrive then .idle else .clocking 0 .low) ∨
      ((decode w ≠ .scan ∨ cmdReady s.eng w = false) ∧ positionOf t.eng = positionOf s.eng)) ∧
    (∀ (s t : State) (l : Lines), s.pending.head? = some (.tick l) → step s = .next t →
      (s.eng.state = .idle ∨ 2 ≤ s.eng.cnt.toNat → positionOf t.eng = positionOf s.eng) ∧
      (s.eng.cnt.toNat ≤ 1 →
        (∀ i, positionOf s.eng = .clocking i .low →
          positionOf t.eng = if l.errDrive || l.errSample then .idle else .clocking i .high) ∧
        (∀ i, positionOf s.eng = .clocking i .high → i.toNat < 15 →
          positionOf t.eng = if l.errDrive then .idle else .clocking (i + 1) .low) ∧
        (positionOf s.eng = .clocking 15 .high →
          positionOf t.eng = if s.eng.quiet = 0 then .idle else .quietWait) ∧
        (positionOf s.eng = .quietWait → positionOf t.eng = .idle)))

/-- R14, R15, R16: only `CONFIG` and `Reset` write the configuration registers. -/
def Obligations.OnlyConfigWritesConfiguration : Prop :=
  ∀ s t : State, s.pending.head? ≠ some .reset →
    (∀ w l, s.pending.head? = some (.offer w l) → decode w = .scan) → step s = .next t →
    t.eng.configured = s.eng.configured ∧ t.eng.half = s.eng.half ∧ t.eng.quiet = s.eng.quiet

/-- R18, R46: no partial frame is observed: two states that differ in `ACC` only go on differing in `ACC` only, unless the
step completes the scan; an abort and a `Reset` do not show it. -/
def Obligations.PartialFrameIsInvisible : Prop :=
  ∀ (s t u : State) (a : Frame), step s = .next t → step { s with eng := { s.eng with acc := a } } = .next u →
    s.eng.state = .idle ∨ t.eng.state ≠ .idle ∨ t.eng.rsp = 0x00020000 ∨ s.pending.head? = some .reset →
    ∃ b, u = { t with eng := { t.eng with acc := b } }

/-- R32: unless the event is a `Reset`, a step announces at most one response, and it announces one exactly when it ends a
scan or accepts a command that it also completes. -/
def Obligations.ResponseOncePerCommand : Prop :=
  ∀ s t : State, s.pending.head? ≠ some .reset → step s = .next t →
    (responses t.eng).length ≤ (responses s.eng).length + 1 ∧
      (rspValid s.eng t.eng = true ↔ busy t.eng = false ∧
        (busy s.eng = true ∨ ∃ w l, s.pending.head? = some (.offer w l) ∧ cmdReady s.eng w = true))

/-! ## The environment and the ends of a run -/

/-- What the environment lists happens, in order and with the events of each instant in theirs, so that a run reaches what
the claims about whole scans speak of (the model's form of the inputs, log entry 1); and ticks never stop (R145 (2), log
entry 18). -/
def Obligations.EnvironmentKeepsMoving : Prop :=
  (∀ (s : State) (is rest : List Instant), s.pending = [] → s.inputs = is ++ rest →
      ∃ t, runSteps (stepsFor is) s = .next t ∧ happened (stepsFor is) s = is.flatMap eventsOf ∧ t.pending = [] ∧
        t.inputs = rest) ∧
    ∀ s : State, TicksForever s

/-- R62, R139, R179: how a run ends. A word that is not accepted stays on offer and the run is not final; an accepted
one leaves the port and the run is final or, with a scan in progress, not over; while the host keeps a `SCAN` on offer to
an unconfigured engine the run stays stuck, with no response; a run is final, or not over, or has a word on offer to an
engine in `Idle`. That a step answers a state while a word waits is the model's form of it, log entries 8 and 22. -/
def Obligations.EndsOfRuns : Prop :=
  (∀ (s : State) (w : CmdWord) (l : Lines) (es : List Event), s.pending = .offer w l :: es →
      cmdReady s.eng w = false → ∃ t, step s = .next t ∧ t.eng = s.eng ∧ OnOffer t w ∧ ¬ Final t) ∧
    (∀ (s : State) (w : CmdWord) (l : Lines) (es : List Event), s.pending = .offer w l :: es →
      cmdReady s.eng w = true → ∃ t, step s = .next t ∧ (∀ v, ¬ OnOffer t v) ∧
        (NotOver t ↔ decode w = .scan ∧ l.errDrive = false) ∧ (Final t ↔ ¬ NotOver t)) ∧
    (∀ (k : Nat) (s : State) (w : CmdWord), StuckFor k s w →
      ∃ t, runSteps k s = .next t ∧ BlockedOn t w ∧ ¬ Final t ∧ cmdReady t.eng w = false ∧
        (responses t.eng).length ≤ (responses s.eng).length) ∧
    ∀ s : State, (Final s → ¬ NotOver s) ∧
      (Final s ∨ NotOver s ∨ (s.eng.state = .idle ∧ ∃ w, OnOffer s w))

/-! ## Whole scans

What happens is given as the list of the events processed in `k` steps, `happened k s`: ticks and offers of the present
instant, of the listed instants and of the free ones. -/

/-- R106, R110: a scan accepted at `t0`, `n` ticks later and without line fault up to then, whatever the host offers. Before
its end: busy, exactly the line events that the schedule has up to that tick count, no response, and from `t0 + 32 HALF` on
the quiet wait with what is left of it. At `n = 32 HALF + QUIET`: the response, with bit `i` the inverse of the level
sampled for channel `i`, after all 48 line events. -/
def Obligations.ScanKeepsItsSchedule : Prop :=
  ∀ (k : Nat) (s : State) (env : Nat → Lines) (w : CmdWord) (es : List Event) (n : Nat), s.eng.state = .idle →
    s.eng.configured = true → 1 ≤ s.eng.half.toNat → decode w = .scan →
    happened k s = .offer w (env s.eng.now) :: es → noReset es = true → ticksOnly es = tickEvents env s.eng.now n →
    (∀ m, m < 48 → accessOffset s.eng.half.toNat m ≤ n →
      accessFaults Config.params env s.eng.now s.eng.half.toNat m = false) →
    ∃ t, runSteps k s = .next t ∧
      (n < scanTicks s.eng.half.toNat s.eng.quiet.toNat →
        busy t.eng = true ∧ t.eng.now = s.eng.now + n ∧ t.eng.rsp = s.eng.rsp ∧
        t.eng.trace = s.eng.trace ++
          (lineEvents env s.eng.now s.eng.half.toNat 48).filter (fun x => decide (x.tick ≤ s.eng.now + n)) ∧
        (32 * s.eng.half.toNat ≤ n → t.eng.state = .quietWait ∧
          t.eng.cnt.toNat + n = scanTicks s.eng.half.toNat s.eng.quiet.toNat) ∧
        t.eng.half = s.eng.half ∧ t.eng.quiet = s.eng.quiet ∧ t.eng.configured = true) ∧
      (n = scanTicks s.eng.half.toNat s.eng.quiet.toNat → endsInTick es = true →
        t.eng.state = .idle ∧ t.eng.now = s.eng.now + (32 * s.eng.half.toNat + s.eng.quiet.toNat) ∧
        t.eng.trace = s.eng.trace ++ lineEvents env s.eng.now s.eng.half.toNat 48 ++ [⟨t.eng.now, .rsp t.eng.rsp⟩] ∧
        t.eng.rsp = t.eng.acc.setWidth 32 ∧
        (∀ i, i < 16 → (t.eng.acc.getLsbD i = true ↔ sampledLevel env s.eng.now s.eng.half.toNat i = .low)) ∧
        (∀ levels : Frame, (∀ i, i < 16 →
          (levels.getLsbD i = true ↔ sampledLevel env s.eng.now s.eng.half.toNat i = .high)) →
          t.eng.acc = 0xFFFF ^^^ levels) ∧
        t.eng.clk = .high ∧ t.eng.idx = 15 ∧ t.eng.ph = .high ∧ t.eng.cnt = 0 ∧ t.eng.half = s.eng.half ∧
        t.eng.quiet = s.eng.quiet ∧ t.eng.configured = true)

/-- R108: whenever the engine rests, from the acceptance of a scan up to the event that ends it, the event-driven machine
and the blocking form of the source, after the same ticks, have the same registers and the same trace at the same tick
counts, whatever the lines answer and the host offers; at the end they have the registers of the whole blocking scan, and
the end comes at the last of its ticks, or earlier by a line fault. -/
def Obligations.BlockingFormAgrees : Prop :=
  ∀ (k : Nat) (s t : State) (env : Nat → Lines) (w : CmdWord) (es : List Event) (n : Nat), s.eng.state = .idle →
    s.eng.configured = true → 1 ≤ s.eng.half.toNat → decode w = .scan →
    happened k s = .offer w (env s.eng.now) :: es → noReset es = true → ticksOnly es = tickEvents env s.eng.now n →
    (∀ j u, j < k → runSteps j s = .next u → u.eng.state = .idle → happened j s = []) →
    runSteps k s = .next t →
    t.eng = blockingAfter Config.params env n s.eng ∧
      (t.eng.state = .idle → t.eng = blockingScan Config.params env s.eng) ∧
      (scanTicks s.eng.half.toNat s.eng.quiet.toNat ≤ n → t.eng.state = .idle)

/-- R134, R135, R176: a scan whose first line fault is at access number `n` is aborted at that access's tick count,
whatever the host offers: the line events before it stand, the response is `LineError`, there is no quiet wait, and the
clock line keeps the level of its last drive; the engine accepts any command at once (R136). -/
def Obligations.LineFaultEndsScanAtItsAccess : Prop :=
  ∀ (k : Nat) (s : State) (env : Nat → Lines) (w : CmdWord) (es : List Event) (n : Nat), s.eng.state = .idle →
    s.eng.configured = true → 1 ≤ s.eng.half.toNat → decode w = .scan → n < 48 →
    happened k s = .offer w (env s.eng.now) :: es → noReset es = true → endsInTick es = true →
    ticksOnly es = tickEvents env s.eng.now (accessOffset s.eng.half.toNat n) →
    (∀ m, m < n → accessFaults Config.params env s.eng.now s.eng.half.toNat m = false) →
    accessFaults Config.params env s.eng.now s.eng.half.toNat n = true →
    ∃ t, runSteps k s = .next t ∧ t.eng.state = .idle ∧
      t.eng.cnt = 0 ∧ t.eng.rsp = 0x00020000 ∧ t.eng.now = s.eng.now + accessOffset s.eng.half.toNat n ∧
      t.eng.trace = s.eng.trace ++ lineEvents env s.eng.now s.eng.half.toNat n ++ [⟨t.eng.now, .rsp 0x00020000⟩] ∧
      t.eng.clk = lineLevel s.eng.clk (lineEvents env s.eng.now s.eng.half.toNat n) ∧ t.eng.half = s.eng.half ∧
      t.eng.quiet = s.eng.quiet ∧ t.eng.configured = true ∧ ∀ v, cmdReady t.eng v = true

/-- R124: from the last sample of a scan to its response, whatever the host offers, no line event happens, the clock line
is high, nothing is reported, and the ticks still due go down by the ticks that occur. -/
def Obligations.QuietIsNeverShortened : Prop :=
  ∀ (k : Nat) (s : State), ConfigInv s.eng → RestInv s.eng → ClockInv s.eng →
    s.eng.state = .quietWait ∨ (s.eng.state = .clocking ∧ s.eng.ph = .high ∧ s.eng.idx = 15) →
    noReset (happened k s) = true → tickCount (happened k s) < ticksLeft s.eng →
    ∃ t, runSteps k s = .next t ∧ t.eng.trace = s.eng.trace ∧ t.eng.clk = .high ∧
      t.eng.rsp = s.eng.rsp ∧ t.eng.acc = s.eng.acc ∧ busy t.eng = true ∧
      ticksLeft t.eng + tickCount (happened k s) = ticksLeft s.eng

/-- R107: nothing the host offers during a scan changes anything: up to the event that ends the scan, be it by a line
fault, the engine is the one it would be in a run in which only the same ticks happened. -/
def Obligations.OffersDoNotDisturbScan : Prop :=
  ∀ (k k' : Nat) (s s' t u : State), s'.eng = s.eng → runSteps k s = .next t → runSteps k' s' = .next u →
    noReset (happened k s) = true → happened k' s' = ticksOnly (happened k s) →
    (∀ j v, j < k → runSteps j s = .next v → v.eng.state ≠ .idle) → t.eng = u.eng

/-- R112: every scan in progress ends: after at most the ticks still due, whatever the lines answer and the host does, the
engine has been `Idle`; and since ticks never stop (R145, log entry 18), from every state the engine comes to be `Idle`;
from states with `CNT = 0` in a wait or `HALF = 0`, which no run reaches (R17, R27), that rests on the model's choice of
log entry 6. -/
def Obligations.ScanTerminates : Prop :=
  (∀ (k : Nat) (s : State), ConfigInv s.eng → RestInv s.eng → ticksLeft s.eng ≤ tickCount (happened k s) →
      ∃ j t, j ≤ k ∧ runSteps j s = .next t ∧ t.eng.state = .idle) ∧
    ∀ s : State, ∃ k t, runSteps k s = .next t ∧ t.eng.state = .idle

/-- R62, R139: on an unconfigured engine in `Idle` a `SCAN` that is offered again and again is never accepted and never
answered; only time passes. -/
def Obligations.UnconfiguredScanWaits : Prop :=
  ∀ (k : Nat) (s : State), s.eng.state = .idle → s.eng.configured = false → noReset (happened k s) = true →
    (∀ w l, Event.offer w l ∈ happened k s → decode w = .scan) →
    ∃ t, runSteps k s = .next t ∧ t.eng = { s.eng with now := s.eng.now + tickCount (happened k s) }

/-- R162 (b), R120, R127: a `SCAN` on offer at the instant of the tick that ends a scan is accepted at that tick count,
after the response, and drives the clock low there: the tick ends a quiet wait or, with `QUIET = 0`, the last half-period
wait. -/
def Obligations.NextScanStartsAtResponse : Prop :=
  ∀ (s : State) (i : Instant) (is : List Instant), s.pending = [] → s.inputs = i :: is → i.rst = false →
    i.tick = true → i.cmdValid = true → decode i.cmd = .scan → i.cmdLine.errDrive = false →
    s.eng.state = .quietWait ∨
      (s.eng.state = .clocking ∧ s.eng.ph = .high ∧ s.eng.idx = 15 ∧ s.eng.quiet = 0) →
    s.eng.cnt = 1 → s.eng.configured = true →
    ∃ t, runSteps 3 s = .next t ∧ t.eng.state = .clocking ∧ t.eng.rsp = s.eng.acc.setWidth 32 ∧
      t.eng.trace = s.eng.trace ++
        [⟨s.eng.now + 1, .rsp (s.eng.acc.setWidth 32)⟩, ⟨s.eng.now + 1, .clkLow⟩]
end

