-- ==== Sys2Proof/Laws/State.lean ====
section
/-! SUPPORT. One lemma per field of the engine per shared operation, and the fields of the state after each of the
environment's moves, so that no proof unfolds a record update. -/

namespace Sys2Proof.Machine

@[simp] theorem emit_configured (ev : TraceEvent) (e : Engine) : (emit ev e).configured = e.configured := rfl
@[simp] theorem emit_half (ev : TraceEvent) (e : Engine) : (emit ev e).half = e.half := rfl
@[simp] theorem emit_quiet (ev : TraceEvent) (e : Engine) : (emit ev e).quiet = e.quiet := rfl
@[simp] theorem emit_state (ev : TraceEvent) (e : Engine) : (emit ev e).state = e.state := rfl
@[simp] theorem emit_idx (ev : TraceEvent) (e : Engine) : (emit ev e).idx = e.idx := rfl
@[simp] theorem emit_ph (ev : TraceEvent) (e : Engine) : (emit ev e).ph = e.ph := rfl
@[simp] theorem emit_cnt (ev : TraceEvent) (e : Engine) : (emit ev e).cnt = e.cnt := rfl
@[simp] theorem emit_acc (ev : TraceEvent) (e : Engine) : (emit ev e).acc = e.acc := rfl
@[simp] theorem emit_clk (ev : TraceEvent) (e : Engine) : (emit ev e).clk = e.clk := rfl
@[simp] theorem emit_rsp (ev : TraceEvent) (e : Engine) : (emit ev e).rsp = e.rsp := rfl
@[simp] theorem emit_now (ev : TraceEvent) (e : Engine) : (emit ev e).now = e.now := rfl
@[simp] theorem emit_trace (ev : TraceEvent) (e : Engine) : (emit ev e).trace = e.trace ++ [⟨e.now, ev⟩] := rfl

@[simp] theorem respond_configured (op : Op) (st : Status) (f : Frame) (e : Engine) : (respond op st f e).configured = e.configured := rfl
@[simp] theorem respond_half (op : Op) (st : Status) (f : Frame) (e : Engine) : (respond op st f e).half = e.half := rfl
@[simp] theorem respond_quiet (op : Op) (st : Status) (f : Frame) (e : Engine) : (respond op st f e).quiet = e.quiet := rfl
@[simp] theorem respond_state (op : Op) (st : Status) (f : Frame) (e : Engine) : (respond op st f e).state = e.state := rfl
@[simp] theorem respond_idx (op : Op) (st : Status) (f : Frame) (e : Engine) : (respond op st f e).idx = e.idx := rfl
@[simp] theorem respond_ph (op : Op) (st : Status) (f : Frame) (e : Engine) : (respond op st f e).ph = e.ph := rfl
@[simp] theorem respond_cnt (op : Op) (st : Status) (f : Frame) (e : Engine) : (respond op st f e).cnt = e.cnt := rfl
@[simp] theorem respond_acc (op : Op) (st : Status) (f : Frame) (e : Engine) : (respond op st f e).acc = e.acc := rfl
@[simp] theorem respond_clk (op : Op) (st : Status) (f : Frame) (e : Engine) : (respond op st f e).clk = e.clk := rfl
@[simp] theorem respond_rsp (op : Op) (st : Status) (f : Frame) (e : Engine) : (respond op st f e).rsp = responseWord op st f := rfl
@[simp] theorem respond_now (op : Op) (st : Status) (f : Frame) (e : Engine) : (respond op st f e).now = e.now := rfl
@[simp] theorem respond_trace (op : Op) (st : Status) (f : Frame) (e : Engine) : (respond op st f e).trace = e.trace ++ [⟨e.now, .rsp (responseWord op st f)⟩] := rfl

@[simp] theorem raise_frequency_configured (e : Engine) : (raise .frequencyOutOfRange e).configured = false := rfl
@[simp] theorem raise_frequency_half (e : Engine) : (raise .frequencyOutOfRange e).half = 0 := rfl
@[simp] theorem raise_frequency_quiet (e : Engine) : (raise .frequencyOutOfRange e).quiet = 0 := rfl
@[simp] theorem raise_frequency_state (e : Engine) : (raise .frequencyOutOfRange e).state = e.state := rfl
@[simp] theorem raise_frequency_idx (e : Engine) : (raise .frequencyOutOfRange e).idx = e.idx := rfl
@[simp] theorem raise_frequency_ph (e : Engine) : (raise .frequencyOutOfRange e).ph = e.ph := rfl
@[simp] theorem raise_frequency_cnt (e : Engine) : (raise .frequencyOutOfRange e).cnt = e.cnt := rfl
@[simp] theorem raise_frequency_acc (e : Engine) : (raise .frequencyOutOfRange e).acc = e.acc := rfl
@[simp] theorem raise_frequency_clk (e : Engine) : (raise .frequencyOutOfRange e).clk = e.clk := rfl
@[simp] theorem raise_frequency_rsp (e : Engine) : (raise .frequencyOutOfRange e).rsp = 0x00050000 := rfl
@[simp] theorem raise_frequency_now (e : Engine) : (raise .frequencyOutOfRange e).now = e.now := rfl
@[simp] theorem raise_frequency_trace (e : Engine) : (raise .frequencyOutOfRange e).trace = e.trace ++ [⟨e.now, .rsp 0x00050000⟩] := rfl

@[simp] theorem raise_line_configured (e : Engine) : (raise .lineError e).configured = e.configured := rfl
@[simp] theorem raise_line_half (e : Engine) : (raise .lineError e).half = e.half := rfl
@[simp] theorem raise_line_quiet (e : Engine) : (raise .lineError e).quiet = e.quiet := rfl
@[simp] theorem raise_line_state (e : Engine) : (raise .lineError e).state = .idle := rfl
@[simp] theorem raise_line_idx (e : Engine) : (raise .lineError e).idx = e.idx := rfl
@[simp] theorem raise_line_ph (e : Engine) : (raise .lineError e).ph = e.ph := rfl
@[simp] theorem raise_line_cnt (e : Engine) : (raise .lineError e).cnt = 0 := rfl
@[simp] theorem raise_line_acc (e : Engine) : (raise .lineError e).acc = e.acc := rfl
@[simp] theorem raise_line_clk (e : Engine) : (raise .lineError e).clk = e.clk := rfl
@[simp] theorem raise_line_rsp (e : Engine) : (raise .lineError e).rsp = 0x00020000 := rfl
@[simp] theorem raise_line_now (e : Engine) : (raise .lineError e).now = e.now := rfl
@[simp] theorem raise_line_trace (e : Engine) : (raise .lineError e).trace = e.trace ++ [⟨e.now, .rsp 0x00020000⟩] := rfl

@[simp] theorem driveClk_low_configured (e : Engine) : (driveClk .low e).configured = e.configured := rfl
@[simp] theorem driveClk_low_half (e : Engine) : (driveClk .low e).half = e.half := rfl
@[simp] theorem driveClk_low_quiet (e : Engine) : (driveClk .low e).quiet = e.quiet := rfl
@[simp] theorem driveClk_low_state (e : Engine) : (driveClk .low e).state = e.state := rfl
@[simp] theorem driveClk_low_idx (e : Engine) : (driveClk .low e).idx = e.idx := rfl
@[simp] theorem driveClk_low_ph (e : Engine) : (driveClk .low e).ph = e.ph := rfl
@[simp] theorem driveClk_low_cnt (e : Engine) : (driveClk .low e).cnt = e.cnt := rfl
@[simp] theorem driveClk_low_acc (e : Engine) : (driveClk .low e).acc = e.acc := rfl
@[simp] theorem driveClk_low_clk (e : Engine) : (driveClk .low e).clk = .low := rfl
@[simp] theorem driveClk_low_rsp (e : Engine) : (driveClk .low e).rsp = e.rsp := rfl
@[simp] theorem driveClk_low_now (e : Engine) : (driveClk .low e).now = e.now := rfl
@[simp] theorem driveClk_low_trace (e : Engine) : (driveClk .low e).trace = e.trace ++ [⟨e.now, .clkLow⟩] := rfl

@[simp] theorem driveClk_high_configured (e : Engine) : (driveClk .high e).configured = e.configured := rfl
@[simp] theorem driveClk_high_half (e : Engine) : (driveClk .high e).half = e.half := rfl
@[simp] theorem driveClk_high_quiet (e : Engine) : (driveClk .high e).quiet = e.quiet := rfl
@[simp] theorem driveClk_high_state (e : Engine) : (driveClk .high e).state = e.state := rfl
@[simp] theorem driveClk_high_idx (e : Engine) : (driveClk .high e).idx = e.idx := rfl
@[simp] theorem driveClk_high_ph (e : Engine) : (driveClk .high e).ph = e.ph := rfl
@[simp] theorem driveClk_high_cnt (e : Engine) : (driveClk .high e).cnt = e.cnt := rfl
@[simp] theorem driveClk_high_acc (e : Engine) : (driveClk .high e).acc = e.acc := rfl
@[simp] theorem driveClk_high_clk (e : Engine) : (driveClk .high e).clk = .high := rfl
@[simp] theorem driveClk_high_rsp (e : Engine) : (driveClk .high e).rsp = e.rsp := rfl
@[simp] theorem driveClk_high_now (e : Engine) : (driveClk .high e).now = e.now := rfl
@[simp] theorem driveClk_high_trace (e : Engine) : (driveClk .high e).trace = e.trace ++ [⟨e.now, .clkHigh⟩] := rfl

@[simp] theorem storeSample_configured (l : Level) (e : Engine) : (storeSample l e).configured = e.configured := rfl
@[simp] theorem storeSample_half (l : Level) (e : Engine) : (storeSample l e).half = e.half := rfl
@[simp] theorem storeSample_quiet (l : Level) (e : Engine) : (storeSample l e).quiet = e.quiet := rfl
@[simp] theorem storeSample_state (l : Level) (e : Engine) : (storeSample l e).state = e.state := rfl
@[simp] theorem storeSample_idx (l : Level) (e : Engine) : (storeSample l e).idx = e.idx := rfl
@[simp] theorem storeSample_ph (l : Level) (e : Engine) : (storeSample l e).ph = e.ph := rfl
@[simp] theorem storeSample_cnt (l : Level) (e : Engine) : (storeSample l e).cnt = e.cnt := rfl
@[simp] theorem storeSample_acc (l : Level) (e : Engine) : (storeSample l e).acc = setFrameBit e.acc e.idx.toNat (channelActive l) := rfl
@[simp] theorem storeSample_clk (l : Level) (e : Engine) : (storeSample l e).clk = e.clk := rfl
@[simp] theorem storeSample_rsp (l : Level) (e : Engine) : (storeSample l e).rsp = e.rsp := rfl
@[simp] theorem storeSample_now (l : Level) (e : Engine) : (storeSample l e).now = e.now := rfl
@[simp] theorem storeSample_trace (l : Level) (e : Engine) : (storeSample l e).trace = e.trace ++ [⟨e.now, .sample l⟩] := rfl

@[simp] theorem waitHalf_configured (ph : Phase) (e : Engine) : (waitHalf ph e).configured = e.configured := rfl
@[simp] theorem waitHalf_half (ph : Phase) (e : Engine) : (waitHalf ph e).half = e.half := rfl
@[simp] theorem waitHalf_quiet (ph : Phase) (e : Engine) : (waitHalf ph e).quiet = e.quiet := rfl
@[simp] theorem waitHalf_state (ph : Phase) (e : Engine) : (waitHalf ph e).state = e.state := rfl
@[simp] theorem waitHalf_idx (ph : Phase) (e : Engine) : (waitHalf ph e).idx = e.idx := rfl
@[simp] theorem waitHalf_ph (ph : Phase) (e : Engine) : (waitHalf ph e).ph = ph := rfl
@[simp] theorem waitHalf_cnt (ph : Phase) (e : Engine) : (waitHalf ph e).cnt = e.half.setWidth 48 := rfl
@[simp] theorem waitHalf_acc (ph : Phase) (e : Engine) : (waitHalf ph e).acc = e.acc := rfl
@[simp] theorem waitHalf_clk (ph : Phase) (e : Engine) : (waitHalf ph e).clk = e.clk := rfl
@[simp] theorem waitHalf_rsp (ph : Phase) (e : Engine) : (waitHalf ph e).rsp = e.rsp := rfl
@[simp] theorem waitHalf_now (ph : Phase) (e : Engine) : (waitHalf ph e).now = e.now := rfl
@[simp] theorem waitHalf_trace (ph : Phase) (e : Engine) : (waitHalf ph e).trace = e.trace := rfl

@[simp] theorem respondFrame_configured (e : Engine) : (respondFrame e).configured = e.configured := rfl
@[simp] theorem respondFrame_half (e : Engine) : (respondFrame e).half = e.half := rfl
@[simp] theorem respondFrame_quiet (e : Engine) : (respondFrame e).quiet = e.quiet := rfl
@[simp] theorem respondFrame_state (e : Engine) : (respondFrame e).state = .idle := rfl
@[simp] theorem respondFrame_idx (e : Engine) : (respondFrame e).idx = e.idx := rfl
@[simp] theorem respondFrame_ph (e : Engine) : (respondFrame e).ph = e.ph := rfl
@[simp] theorem respondFrame_cnt (e : Engine) : (respondFrame e).cnt = e.cnt := rfl
@[simp] theorem respondFrame_acc (e : Engine) : (respondFrame e).acc = e.acc := rfl
@[simp] theorem respondFrame_clk (e : Engine) : (respondFrame e).clk = e.clk := rfl
@[simp] theorem respondFrame_rsp (e : Engine) : (respondFrame e).rsp = responseWord .scan .ok e.acc := rfl
@[simp] theorem respondFrame_now (e : Engine) : (respondFrame e).now = e.now := rfl
@[simp] theorem respondFrame_trace (e : Engine) : (respondFrame e).trace = e.trace ++ [⟨e.now, .rsp (responseWord .scan .ok e.acc)⟩] := rfl

@[simp] theorem takeReset_eng (s : State) : (takeReset s).eng = Engine.resetWith Config.params := rfl
@[simp] theorem takeReset_line (s : State) : (takeReset s).line = s.line := rfl
@[simp] theorem takeReset_pending (s : State) : (takeReset s).pending = s.pending := rfl
@[simp] theorem takeReset_inputs (s : State) : (takeReset s).inputs = s.inputs := rfl
@[simp] theorem takeReset_port (s : State) : (takeReset s).port = s.port := rfl
@[simp] theorem takeReset_tickWithin (s : State) : (takeReset s).tickWithin = s.tickWithin := rfl
@[simp] theorem takeReset_instants (s : State) : (takeReset s).instants = s.instants := rfl

@[simp] theorem takeTick_eng (l : Lines) (s : State) : (takeTick l s).eng = onTick Config.params l s.eng := rfl
@[simp] theorem takeTick_line (l : Lines) (s : State) : (takeTick l s).line = l := rfl
@[simp] theorem takeTick_pending (l : Lines) (s : State) : (takeTick l s).pending = s.pending := rfl
@[simp] theorem takeTick_inputs (l : Lines) (s : State) : (takeTick l s).inputs = s.inputs := rfl
@[simp] theorem takeTick_port (l : Lines) (s : State) : (takeTick l s).port = s.port := rfl
@[simp] theorem takeTick_tickWithin (l : Lines) (s : State) : (takeTick l s).tickWithin = s.tickWithin := rfl
@[simp] theorem takeTick_instants (l : Lines) (s : State) : (takeTick l s).instants = s.instants := rfl

@[simp] theorem beginInstant_eng (i : Instant) (s : State) : (beginInstant i s).eng = s.eng := rfl
@[simp] theorem beginInstant_line (i : Instant) (s : State) : (beginInstant i s).line = s.line := rfl
@[simp] theorem beginInstant_port (i : Instant) (s : State) : (beginInstant i s).port = portOf i := rfl
@[simp] theorem beginInstant_pending (i : Instant) (s : State) : (beginInstant i s).pending = eventsOf i := rfl
@[simp] theorem beginInstant_inputs (i : Instant) (s : State) : (beginInstant i s).inputs = s.inputs := rfl
@[simp] theorem beginInstant_instants (i : Instant) (s : State) : (beginInstant i s).instants = s.instants + 1 := rfl
@[simp] theorem beginInstant_tickWithin (i : Instant) (s : State) : (beginInstant i s).tickWithin = s.tickWithin := rfl

/-- Everything the environment can do: a listed instant, a free one within the gap, or a free one with the tick due. -/
theorem presentInstant_cases (s : State) :
    (∃ i is, s.inputs = i :: is ∧ presentInstant s = { beginInstant i s with inputs := is }) ∨
      (∃ n, s.inputs = [] ∧ tickDue s = n + 1 ∧
        presentInstant s = { beginInstant (Config.freeInstant s.instants) s with tickWithin := some n }) ∨
      (s.inputs = [] ∧ tickDue s = 0 ∧
        presentInstant s = { beginInstant (withTick (Config.freeInstant s.instants)) s with tickWithin := none }) := by
  unfold presentInstant
  split
  · next i is h => exact .inl ⟨i, is, h, rfl⟩
  · next h =>
    split
    · next hd => exact .inr (.inr ⟨h, hd, rfl⟩)
    · next n hd => exact .inr (.inl ⟨n, h, hd, rfl⟩)

@[simp] theorem presentInstant_eng (s : State) : (presentInstant s).eng = s.eng := by
  obtain ⟨_, _, _, h⟩ | ⟨_, _, _, h⟩ | ⟨_, _, h⟩ := presentInstant_cases s <;> rw [h] <;> rfl
@[simp] theorem presentInstant_line (s : State) : (presentInstant s).line = s.line := by
  obtain ⟨_, _, _, h⟩ | ⟨_, _, _, h⟩ | ⟨_, _, h⟩ := presentInstant_cases s <;> rw [h] <;> rfl
@[simp] theorem presentInstant_instants (s : State) : (presentInstant s).instants = s.instants + 1 := by
  obtain ⟨_, _, _, h⟩ | ⟨_, _, _, h⟩ | ⟨_, _, h⟩ := presentInstant_cases s <;> rw [h] <;> rfl

end Sys2Proof.Machine
end

