-- ==== Sys2Proof/Laws/Ops.lean ====
section
/-! SUPPORT. One lemma per shared operation that says everything it can do, for proofs to cite instead of unfolding it:
the down-counter, the reactions, `CONFIG`, one step, and several steps in a row. -/

namespace Sys2Proof.Machine

/-! ### The parameters of this hardware -/

@[simp] theorem params_fMin : Config.params.fMin = 1000 := rfl
@[simp] theorem params_fMax : Config.params.fMax = 512000 := rfl
@[simp] theorem params_hasLineErr : Config.params.hasLineErr = true := rfl
@[simp] theorem params_clkReset : Config.params.clkReset = .high := rfl

@[simp] theorem lineFault_params (b : Bool) : lineFault Config.params b = b := rfl

/-! ### The down-counter -/

/-- `CNT` counts down and stops at 0. -/
theorem countDown_toNat (c : BitVec 48) : (countDown c).toNat = c.toNat - 1 := by
  unfold countDown
  split
  · simp [*]
  · next h =>
    have : c.toNat ≠ 0 := fun h' => h (BitVec.eq_of_toNat_eq (by simpa using h'))
    bv_omega

/-- A wait is over at its next tick when at most one tick is left. -/
theorem countDown_eq_zero (c : BitVec 48) : countDown c = 0 ↔ c.toNat ≤ 1 := by
  rw [← BitVec.toNat_inj, countDown_toNat]
  change c.toNat - 1 = 0 ↔ _
  omega

/-! ### Reactions: what each can answer -/

/-- `DRIVE_LOW`: the access is granted and the wait begins, or the scan is aborted. -/
theorem driveLow_cases (p : Params) (l : Lines) (e : Engine) :
    (lineFault p l.errDrive = false ∧ driveLow p l e = waitHalf .low (driveClk .low e)) ∨
      (lineFault p l.errDrive = true ∧ driveLow p l e = raise .lineError e) := by
  unfold driveLow; split <;> simp_all

/-- `DRIVE_HIGH` and `SAMPLE`: both granted, or an abort at the first or at the second. -/
theorem driveHighAndSample_cases (p : Params) (l : Lines) (e : Engine) :
    (lineFault p l.errDrive = false ∧ lineFault p l.errSample = false ∧
        driveHighAndSample p l e = waitHalf .high (storeSample l.data (driveClk .high e))) ∨
      (lineFault p l.errDrive = true ∧ driveHighAndSample p l e = raise .lineError e) ∨
      (lineFault p l.errDrive = false ∧ lineFault p l.errSample = true ∧
        driveHighAndSample p l e = raise .lineError (driveClk .high e)) := by
  unfold driveHighAndSample; split
  · simp_all
  · split <;> simp_all

/-- The quiet wait begins, or is over at once. -/
theorem enterQuiet_cases (e : Engine) :
    (e.quiet ≠ 0 ∧ enterQuiet e = { e with state := .quietWait, cnt := e.quiet }) ∨
      (e.quiet = 0 ∧ enterQuiet e = respondFrame { e with state := .quietWait, cnt := 0 }) := by
  unfold enterQuiet; split <;> simp_all

/-- `NEXT`: another channel, or the quiet wait after channel 15. -/
theorem nextChannel_cases (p : Params) (l : Lines) (e : Engine) :
    (e.idx.toNat < 15 ∧ nextChannel p l e = driveLow p l { e with idx := e.idx + 1 }) ∨
      (e.idx = 15 ∧ nextChannel p l e = enterQuiet e) := by
  unfold nextChannel; split
  · next h => exact .inl ⟨by simpa [BitVec.lt_def] using h, rfl⟩
  · next h =>
    refine .inr ⟨BitVec.eq_of_toNat_eq ?_, rfl⟩
    have hlt := e.idx.isLt
    have hge : ¬ e.idx.toNat < 15 := by simpa [BitVec.lt_def] using h
    change e.idx.toNat = 15
    omega

/-- A tick: only time in `Idle`; a count in a wait; or the end of the wait, with what follows it. -/
theorem onTick_cases (p : Params) (l : Lines) (e : Engine) :
    (e.state = .idle ∧ onTick p l e = { e with now := e.now + 1 }) ∨
      (e.state ≠ .idle ∧ 2 ≤ e.cnt.toNat ∧
        onTick p l e = { e with now := e.now + 1, cnt := countDown e.cnt }) ∨
      (e.state = .clocking ∧ e.ph = .low ∧ e.cnt.toNat ≤ 1 ∧
        onTick p l e = driveHighAndSample p l { e with now := e.now + 1, cnt := 0 }) ∨
      (e.state = .clocking ∧ e.ph = .high ∧ e.cnt.toNat ≤ 1 ∧
        onTick p l e = nextChannel p l { e with now := e.now + 1, cnt := 0 }) ∨
      (e.state = .quietWait ∧ e.cnt.toNat ≤ 1 ∧
        onTick p l e = respondFrame { e with now := e.now + 1, cnt := 0 }) := by
  unfold onTick
  split
  · exact .inl ⟨‹_›, rfl⟩
  · next hs =>
    split
    · next hc =>
      have hc := (countDown_eq_zero _).1 hc
      rcases e with ⟨_, _, _, st, _, ph, _, _, _, _, _, _⟩
      cases st
      · exact absurd rfl hs
      · cases ph
        · exact .inr (.inr (.inl ⟨rfl, rfl, hc, rfl⟩))
        · exact .inr (.inr (.inr (.inl ⟨rfl, rfl, hc, rfl⟩)))
      · exact .inr (.inr (.inr (.inr ⟨rfl, hc, rfl⟩)))
    · next hc =>
      have hc := mt (countDown_eq_zero _).2 hc
      exact .inr (.inl ⟨hs, by omega, rfl⟩)

/-- `CONFIG`: a success with a half period of at least 1, or the one error. -/
theorem configure_cases (p : Params) (t f q : Operand) (e : Engine) :
    (inBand p f.toNat = true ∧ halfPeriod t.toNat f.toNat ≠ 0 ∧
        configure p t f q e =
          configSucceeds (halfPeriod t.toNat f.toNat) (quietPeriod q.toNat t.toNat) e) ∨
      ((inBand p f.toNat = false ∨ halfPeriod t.toNat f.toNat = 0) ∧
        configure p t f q e = raise .frequencyOutOfRange e) := by
  unfold configure; split
  · split <;> simp_all
  · simp_all

/-! ### The blocking wait -/

/-- A wait with `CNT = 0` is over at once. -/
theorem blockFor_done (left : Nat) {e : Engine} (h : e.cnt = 0) : blockFor left e = .going left e := by
  rw [blockFor.eq_def, if_pos h]

/-- A tick within a wait. -/
theorem blockFor_tick (left : Nat) {e : Engine} (h : e.cnt ≠ 0) :
    blockFor (left + 1) e = blockFor left { e with now := e.now + 1, cnt := countDown e.cnt } := by
  rw [blockFor.eq_def, if_neg h]

/-- No more ticks within a wait. -/
theorem blockFor_stop {e : Engine} (h : e.cnt ≠ 0) : blockFor 0 e = .resting e := by
  rw [blockFor.eq_def, if_neg h]

/-- A wait with enough ticks to come is over after as many of them as `CNT` holds. -/
theorem blockFor_over (left : Nat) (e : Engine) (h : e.cnt.toNat ≤ left) :
    blockFor left e = .going (left - e.cnt.toNat) { e with now := e.now + e.cnt.toNat, cnt := 0 } := by
  by_cases hz : e.cnt = 0
  · rw [blockFor_done left hz]; cases e; cases hz; rfl
  · have hp : e.cnt.toNat ≠ 0 := fun h' => hz (BitVec.eq_of_toNat_eq (by simpa using h'))
    have hc := countDown_toNat e.cnt
    match left with
    | 0 => omega
    | left + 1 =>
      rw [blockFor_tick left hz, blockFor_over left _ (by simp only; omega)]
      simp only [show left - (countDown e.cnt).toNat = left + 1 - e.cnt.toNat by omega,
        show e.now + 1 + (countDown e.cnt).toNat = e.now + e.cnt.toNat by omega]

/-- A wait with too few ticks to come rests with the remainder in `CNT`. -/
theorem blockFor_rests (left : Nat) (e : Engine) (h : left < e.cnt.toNat) :
    ∃ c, blockFor left e = .resting { e with now := e.now + left, cnt := c } ∧ c.toNat + left = e.cnt.toNat := by
  have hz : e.cnt ≠ 0 := fun hz => by simp [hz] at h
  have hc := countDown_toNat e.cnt
  match left with
  | 0 => exact ⟨e.cnt, blockFor_stop hz, rfl⟩
  | left + 1 =>
    obtain ⟨c, hb, hl⟩ := blockFor_rests left { e with now := e.now + 1, cnt := countDown e.cnt } (by simp only; omega)
    simp only at hl
    refine ⟨c, ?_, by omega⟩
    rw [blockFor_tick left hz, hb]
    simp only [Nat.add_assoc, Nat.add_comm 1 left]

/-! ### One step -/

/-- Everything a step can do. -/
theorem step_cases {s t : State} (h : step s = .next t) :
    (s.pending = [] ∧ t = presentInstant s) ∨
      (∃ es, s.pending = .reset :: es ∧ t = takeReset { s with pending := es }) ∨
      (∃ l es, s.pending = .tick l :: es ∧ t = takeTick l { s with pending := es }) ∨
      (∃ w l es, s.pending = .offer w l :: es ∧ decode w = .scan ∧ accepts s.eng .scan = true ∧
        t = { s with pending := es, line := l, port := none, eng := startScan Config.params l s.eng }) ∨
      (∃ w l es a b c, s.pending = .offer w l :: es ∧ decode w = .config a b c ∧
        accepts s.eng (.config a b c) = true ∧
        t = { s with pending := es, line := l, port := none, eng := configure Config.params a b c s.eng }) ∨
      (∃ w l es, s.pending = .offer w l :: es ∧ accepts s.eng (decode w) = false ∧
        t = { s with pending := es, line := l, port := some w }) := by
  unfold step at h
  split at h
  · next hp => cases h; exact .inl ⟨hp, rfl⟩
  · next es hp => cases h; exact .inr (.inl ⟨es, hp, rfl⟩)
  · next l es hp => cases h; exact .inr (.inr (.inl ⟨l, es, hp, rfl⟩))
  · next w l es hp =>
    refine .inr (.inr (.inr ?_))
    cases hd : decode w with
    | scan =>
      simp only [hd, exec, execScan] at h
      split at h
      · next ha => cases h; exact .inl ⟨w, l, es, hp, hd, ha, rfl⟩
      · next ha => cases h; exact .inr (.inr ⟨w, l, es, hp, by simpa [hd] using ha, rfl⟩)
    | config a b c =>
      simp only [hd, exec, execConfig] at h
      split at h
      · next ha => cases h; exact .inr (.inl ⟨w, l, es, a, b, c, hp, hd, ha, rfl⟩)
      · next ha => cases h; exact .inr (.inr ⟨w, l, es, hp, by simpa [hd] using ha, rfl⟩)

/-- A `SCAN` is accepted only by a configured engine in `Idle`. -/
theorem accepts_scan (e : Engine) : accepts e .scan = true ↔ e.state = .idle ∧ e.configured = true := by
  simp [accepts, busy]

/-- A `CONFIG` is accepted only in `Idle`. -/
theorem accepts_config (e : Engine) (t f q : Operand) : accepts e (.config t f q) = true ↔ e.state = .idle := by
  simp [accepts, busy]

/-! ### Several steps -/

/-- It is the host's way of running the machine. -/
theorem runSteps_eq_run (k : Nat) (s : State) : runSteps k s = core.run k s := by
  induction k generalizing s with
  | zero => rfl
  | succ k ih =>
    have hrun := Host.Core.run.eq_2 core s k
    cases hs : step s with
    | next t =>
      have hc : core.step s = .next t := hs
      rw [hc] at hrun
      rw [runSteps, hs]
      exact (ih t).trans hrun.symm
    | fault r => cases r
    | refused r =>
      have hc : core.step s = .refused r := hs
      rw [hc] at hrun
      rw [runSteps, hs]
      exact hrun.symm

@[simp] theorem runSteps_zero (s : State) : runSteps 0 s = .next s := rfl

/-- One step first. -/
theorem runSteps_succ (k : Nat) {s t : State} (h : step s = .next t) : runSteps (k + 1) s = runSteps k t := by
  rw [runSteps, h]

/-- Runs compose. -/
theorem runSteps_add (j k : Nat) {s t : State} (h : runSteps j s = .next t) :
    runSteps (j + k) s = runSteps k t := by
  induction j generalizing s with
  | zero => cases h; simp
  | succ j ih =>
    cases hs : step s with
    | next u =>
      rw [runSteps_succ _ hs] at h
      rw [Nat.succ_add, runSteps_succ _ hs, ih h]
    | fault r => cases r
    | refused r => rw [runSteps, hs] at h; cases h

/-! ### What happens in several steps -/

@[simp] theorem happened_zero (s : State) : happened 0 s = [] := rfl

/-- One step first: the event it processes, if there is one, happens first. -/
theorem happened_succ (k : Nat) {s t : State} (h : step s = .next t) :
    happened (k + 1) s = s.pending.head?.toList ++ happened k t := by
  rw [happened, h]

/-- What happens in a run is what happens in its first part and then in its second. -/
theorem happened_add (j k : Nat) {s t : State} (h : runSteps j s = .next t) :
    happened (j + k) s = happened j s ++ happened k t := by
  induction j generalizing s with
  | zero => cases h; simp
  | succ j ih =>
    cases hs : step s with
    | next u =>
      rw [runSteps_succ _ hs] at h
      rw [Nat.succ_add, happened_succ _ hs, happened_succ _ hs, ih h, List.append_assoc]
    | fault r => cases r
    | refused r => rw [runSteps, hs] at h; cases h

end Sys2Proof.Machine
end

