-- ==== Sys2Proof/Laws/PerInstr.lean ====
section
/-! SUPPORT. Statements made for every instruction, one lemma per constructor. -/

namespace Sys2Proof.Laws.EncodeCanonical

/-- The word of an instruction has its ignored bits 0 and its opcode bit as R57 says. -/
def Statement (i : Instr) : Prop :=
  CmdWord.canonical (encode i) = true ∧ (cmdOpBit (encode i) = true ↔ i.op = .config)

theorem scan : Statement .scan := by
  constructor <;> decide

theorem config (t f q : Operand) : Statement (.config t f q) := by
  have hr : (encode (.config t f q)).extractLsb' 97 31 = 0 := by
    apply BitVec.eq_of_getLsbD_eq
    intro i hi
    simp only [encode, BitVec.getLsbD_extractLsb', BitVec.getLsbD_append]
    simp [show ¬ 97 + i < 32 by omega, show ¬ 97 + i - 32 < 32 by omega,
      show ¬ 97 + i - 32 - 32 < 32 by omega, show ¬ 97 + i - 32 - 32 - 32 < 1 by omega]
  have ho : cmdOpBit (encode (.config t f q)) = true := by
    simp only [cmdOpBit, encode, BitVec.getLsbD_append]
    simp
  refine ⟨?_, by simp [ho, Instr.op]⟩
  simp [CmdWord.canonical, hr, show (encode (.config t f q)).getLsbD 96 = true from ho]

end Sys2Proof.Laws.EncodeCanonical
end

