-- ==== Sys2Proof/Tests/Slice0.lean ====
section
/-! SUPPORT. Tests of the model on the spec's own vectors (95_test_vectors.md, named in each comment), a smoke test of every
well-formedness check, and for every statement with hypotheses a state and operands that meet them. -/

namespace Sys2Proof.Tests

open Sys2Proof.Machine

/-! ### Well-formedness: an ill-formed term for each check -/

theorem test_asm_tick_rate_too_large : (AsmCommand.config 4294967296 1000 0).wf = false := by decide
theorem test_asm_frequency_too_large : (AsmCommand.config 2000 4294967296 0).wf = false := by decide
theorem test_asm_quiet_too_large : (AsmCommand.config 2000 1000 4294967296).wf = false := by decide
theorem test_asm_largest_operands : (AsmCommand.config 4294967295 4294967295 4294967295).wf = true := by decide
theorem test_params_fmin_zero : ({ Config.params with fMin := 0 } : Params).wf = false := by decide
theorem test_params_band_empty : ({ Config.params with fMin := 512001 } : Params).wf = false := by decide
theorem test_params_fmax_too_large : ({ Config.params with fMax := 4294967296 } : Params).wf = false := by decide
theorem test_params_of_this_hardware : Config.params.wf = true := by decide
theorem test_reserved_bit_not_canonical : CmdWord.canonical 0x00000003000000000000000000000000 = false := by decide
theorem test_scan_payload_not_canonical : CmdWord.canonical 0x00000000000000000000000000000001 = false := by decide
theorem test_rsp_status_without_config : RspWord.wf 0x00010000 = false := by decide
theorem test_rsp_unused_status : RspWord.wf 0x00030000 = false := by decide
theorem test_rsp_config_with_frame : RspWord.wf 0x00040001 = false := by decide
theorem test_rsp_high_bit : RspWord.wf 0x00080000 = false := by decide
theorem test_rsp_frame_word : RspWord.wf 0x00008001 = true := by decide

/-! ### Decoding: words written out from the spec (section 2.1, program P6, section 2.2) -/

theorem test_decode_scan : decode 0x00000000000000000000000000000000 = .scan := by decide
theorem test_decode_scan_ignores_low_bits : decode 0x00000000FFFFFFFFFFFFFFFFFFFFFFFF = .scan := by decide
theorem test_decode_scan_ignores_reserved : decode 0xFFFFFFFE000000000000000000000000 = .scan := by decide
theorem test_decode_scan_p6 : decode 0xDEADBEEE123456789ABCDEF00F1E2D3C = .scan := by decide
theorem test_decode_config : decode 0x00000001000003E800002710000F4240 = .config 1000000 10000 1000 := by decide
theorem test_decode_config_ignores_reserved :
    decode 0xFFFFFFFF000003E800002710000F4240 = .config 1000000 10000 1000 := by decide
theorem test_decode_config_bit_97 : decode 0x0000000300000005000003E8000007D0 = .config 2000 1000 5 := by decide
theorem test_decode_config_zero : decode 0x00000001000000000000000000000000 = .config 0 0 0 := by decide
theorem test_encode_config : encode (.config 72000000 512000 2000) = 0x00000001000007D00007D000044AA200 := by decide
theorem test_decode_table_word :
    decodeTableWord 128 0x00000001000003E800002710000F4240 = some (.config 1000000 10000 1000) := by decide
theorem test_table_rows :
    (opcodeTable.filter fun r => r.selects 0xFFFFFFFE000000000000000000000000).map (·.mnemonic) = ["SCAN"] := by decide

/-! ### Helpers -/

/-- An engine in `Idle` configured with `half`, `quiet`, as after reset otherwise. -/
def idleWith (half : BitVec 32) (quiet : BitVec 48) : Engine :=
  { State.reset.eng with configured := true, half := half, quiet := quiet }

/-- A state with an engine and its pending events. -/
def stateWith (e : Engine) (es : List Event) : State := { State.reset with eng := e, pending := es }

/-- The engine after one step. -/
def engineAfter (s : State) : Option Engine :=
  match step s with
  | .next t => some t.eng
  | _ => none

/-- A rest state within a scan: `STATE IDX PH CNT`, `ACC`, `CLK` and the tick count. -/
def scanning (half : BitVec 32) (quiet : BitVec 48) (st : SeqState) (idx : BitVec 4) (ph : Phase) (cnt : BitVec 48)
    (acc : Frame) (clk : Level) (now : Nat) : Engine :=
  { idleWith half quiet with state := st, idx := idx, ph := ph, cnt := cnt, acc := acc, clk := clk, now := now }

/-- `DATA` low, no line fault. -/
def dataLow : Lines := { Lines.calm with data := .low }

/-- `line_err = 1` at the drive. -/
def driveFault : Lines := { Lines.calm with errDrive := true }

/-- `line_err = 1` at the read. -/
def readFault : Lines := { Lines.calm with errSample := true }

/-! ### CONFIG (section 2.2, rows 11 and 10) -/

theorem test_config_largest_operands :
    (engineAfter (stateWith State.reset.eng [.offer 0x00000001FFFFFFFF000003E8FFFFFFFF Lines.calm])).map
      (fun e => (e.configured, e.half.toNat, e.quiet.toNat, e.rsp)) =
      some (true, 2147483, 18446744065119, 0x00040000) := by decide
theorem test_config_frequency_zero_fails :
    (engineAfter (stateWith (idleWith 50 1000) [.offer 0x00000001000003E800000000000F4240 Lines.calm])).map
      (fun e => (e.configured, e.half.toNat, e.quiet.toNat, e.rsp)) = some (false, 0, 0, 0x00050000) := by decide

/-! ### SCAN and its micro-operations (sections 2.4, 2.5, 2.6; P1, P4, P5) -/

/-- Section 2.4: after `Cmd(SCAN)` at tick 0, `Clocking 0 Low 50`, `CLK = 0`. -/
theorem test_scan_starts :
    engineAfter (stateWith (idleWith 50 1000) [.offer 0 Lines.calm]) =
      some { scanning 50 1000 .clocking 0 .low 50 0 .low 0 with trace := [⟨0, .clkLow⟩] } := by decide
/-- P5: a `SCAN` on an unconfigured engine is never accepted. -/
theorem test_scan_unconfigured_waits :
    engineAfter (stateWith State.reset.eng [.offer 0 Lines.calm]) = some State.reset.eng := by decide
/-- Section 2.4, `Tick` @350: channel 3 sampled low. -/
theorem test_sample_channel_three :
    engineAfter (stateWith (scanning 50 1000 .clocking 3 .low 1 0 .low 349) [.tick dataLow]) =
      some { scanning 50 1000 .clocking 3 .high 50 0x0008 .high 350 with
        trace := [⟨350, .clkHigh⟩, ⟨350, .sample .low⟩] } := by decide
/-- Section 2.4, `Tick` @100: the next channel. -/
theorem test_next_channel :
    (engineAfter (stateWith (scanning 50 1000 .clocking 0 .high 1 0 .high 99) [.tick Lines.calm])).map
      (fun e => (e.state, e.idx, e.ph, e.cnt, e.clk)) = some (.clocking, 1, .low, 50, .low) := by decide
/-- Section 2.4, `Tick` @1600: the quiet wait begins. -/
theorem test_quiet_wait_begins :
    (engineAfter (stateWith (scanning 50 1000 .clocking 15 .high 1 8 .high 1599) [.tick Lines.calm])).map
      (fun e => (e.state, e.idx, e.ph, e.cnt, e.clk)) = some (.quietWait, 15, .high, 1000, .high) := by decide
/-- Section 2.4, `Tick` @2600: the response. -/
theorem test_response :
    (engineAfter (stateWith (scanning 50 1000 .quietWait 15 .high 1 8 .high 2599) [.tick Lines.calm])).map
      (fun e => (e.state, e.cnt, e.acc, e.rsp, e.trace)) =
      some (.idle, 0, 8, 0x00000008, [⟨2600, .rsp 0x00000008⟩]) := by decide
/-- Section 2.4, `HALF = 1`, `QUIET = 0`: logical end and response @32. -/
theorem test_zero_quiet_wait :
    (engineAfter (stateWith (scanning 1 0 .clocking 15 .high 1 0x8001 .high 31) [.tick Lines.calm])).map
      (fun e => (e.state, e.cnt, e.rsp, e.trace)) =
      some (.idle, 0, 0x00008001, [⟨32, .rsp 0x00008001⟩]) := by decide
/-- Section 2.6, fault at `H3`: `CLK` stays 0. -/
theorem test_fault_at_drive_high :
    engineAfter (stateWith (scanning 2 5 .clocking 3 .low 1 7 .low 13) [.tick driveFault]) =
      some { scanning 2 5 .idle 3 .low 0 7 .low 14 with
        rsp := 0x00020000, trace := [⟨14, .rsp 0x00020000⟩] } := by decide
/-- Section 2.6, fault at `S3`: `CLK` is 1, `ACC` is not written. -/
theorem test_fault_at_read :
    engineAfter (stateWith (scanning 2 5 .clocking 3 .low 1 7 .low 13) [.tick readFault]) =
      some { scanning 2 5 .idle 3 .low 0 7 .high 14 with
        rsp := 0x00020000, trace := [⟨14, .clkHigh⟩, ⟨14, .rsp 0x00020000⟩] } := by decide
/-- Section 2.6, fault at `L3`: `IDX` is already 3, `PH` is `High`. -/
theorem test_fault_at_drive_low :
    engineAfter (stateWith (scanning 2 5 .clocking 2 .high 1 7 .high 11) [.tick driveFault]) =
      some { scanning 2 5 .idle 3 .high 0 7 .high 12 with
        rsp := 0x00020000, trace := [⟨12, .rsp 0x00020000⟩] } := by decide

/-! ### Reset (section 2.7) and the probe -/

theorem test_reset_in_mid_scan :
    engineAfter (stateWith (scanning 50 1000 .clocking 3 .low 17 5 .low 333) [.reset]) = some State.reset.eng := by
  decide
theorem test_probe_of_scan_runs :
    (engineAfter (State.reset.withFetchWord 128 0)).map (fun e => (e.state, e.clk)) = some (.clocking, .low) := by
  decide
theorem test_probe_of_config_runs :
    (engineAfter (State.reset.withFetchWord 128 0x00000001000003E800002710000F4240)).map
      (fun e => (e.half, e.quiet, e.rsp)) = some (50, 1000, 0x00040000) := by decide

/-! ### Texts (R43, R68, section 1 S2) -/

theorem test_print_channel_three :
    printFrame 8 = ['0', '0', '0', '0', '0', '0', '0', '0', '0', '0', '0', '0', '1', '0', '0', '0'] := by decide
theorem test_read_hexadecimal_with_separator : readNumber ['0', 'x', '2', '7', '_', '1', '0'] = some 10000 := by decide
theorem test_read_config_line :
    readLine ['C', 'O', 'N', 'F', 'I', 'G', ' ', '2', '0', '0', '0', ',', ' ', '1', '0', '0', '0', ',', ' ', '5', ' ', ';', 'x'] =
      .command (.config 2000 1000 5) := by decide
theorem test_assemble_config : assemble (.config 2000 1000 5) = some 0x0000000100000005000003E8000007D0 := by decide
/-- R70: `DATA 0xFFF7` is low at the sample of channel 3 only, `LINEERR at S3` at its read only. -/
theorem test_script_lines :
    scriptLines 2 0 0xFFF7 (some 11) 14 = { errDrive := false, errSample := true, data := .low } ∧
      scriptLines 2 0 0xFFF7 (some 11) 10 = Lines.calm := by decide

/-! ### The fixed sequence and the schedule (R96, R106, R134) -/

theorem test_scan_has_98_micro_operations : scanOps.length = 98 := by decide
/-- Section 2.4, `HALF = 50`: channels 1 and 15. -/
theorem test_schedule :
    accessOffset 50 3 = 100 ∧ accessOffset 50 4 = 150 ∧ accessOffset 50 45 = 1500 ∧ accessOffset 50 47 = 1550 ∧
      scanTicks 50 1000 = 2600 := by decide
/-- Section 2.4, the rest state after `Tick` @350, in the blocking form. -/
theorem test_blocking_rests_in_channel_three :
    (fun e : Engine => (e.state, e.idx, e.ph, e.cnt, e.acc, e.clk, e.now))
      (blockingAfter Config.params (scriptLines 50 0 0xFFF7 none) 350 (idleWith 50 1000)) =
      (.clocking, 3, .high, 50, 0x0008, .high, 350) := by decide +kernel
/-- Section 2.4, the rest state after `Tick` @2599, in the blocking form. -/
theorem test_blocking_rests_in_quiet_wait :
    (fun e : Engine => (e.state, e.idx, e.ph, e.cnt, e.acc, e.clk, e.now))
      (blockingAfter Config.params (scriptLines 50 0 0xFFF7 none) 2599 (idleWith 50 1000)) =
      (.quietWait, 15, .high, 1, 0x0008, .high, 2599) := by decide +kernel

/-! ### Witnesses: the hypotheses of the statements can be met -/

/-- No line fault at any tick. -/
def calmEnv : Nat → Lines := fun _ => Lines.calm

/-- A read fault at every tick. -/
def readFaultEnv : Nat → Lines := fun _ => readFault

theorem witness_DecodeAndEncodeAgree :
    (∃ w : CmdWord, w.getLsbD 96 = true) ∧ ∃ w : CmdWord, w.getLsbD 96 = false :=
  ⟨⟨0x00000001000000000000000000000000, by decide⟩, ⟨0, by decide⟩⟩
theorem witness_IgnoredBitsDoNotMatter :
    (∃ w w' : CmdWord, w ≠ w' ∧ w.extractLsb' 0 97 = w'.extractLsb' 0 97) ∧
      ∃ w w' : CmdWord, w ≠ w' ∧ w.getLsbD 96 = false ∧ w'.getLsbD 96 = false :=
  ⟨⟨0, 0x80000000000000000000000000000000, by decide⟩, ⟨0, 0x00000000FFFFFFFFFFFFFFFFFFFFFFFF, by decide⟩⟩
theorem witness_AssemblerPlacesOperands :
    (∃ t f q : Nat, t < 2 ^ 32 ∧ f < 2 ^ 32 ∧ q < 2 ^ 32 ∧ t = 4294967295) ∧
      ∃ t f q : Nat, (2 ^ 32 ≤ t ∨ 2 ^ 32 ≤ f ∨ 2 ^ 32 ≤ q) ∧ f = 0 ∧ q = 0 :=
  ⟨⟨4294967295, 0, 0, by decide⟩, ⟨4294967296, 0, 0, by decide⟩⟩
theorem witness_PrintedFrameShowsEveryBit :
    (∃ i : Nat, i < 16 ∧ i = 15) ∧ ∃ f g : Frame, printFrame f = printFrame g :=
  ⟨⟨15, by decide⟩, ⟨0x8001, 0x8001, rfl⟩⟩
theorem witness_StepRunsOfferedCommand :
    ∃ (s : State) (w : CmdWord) (l : Lines) (es : List Event), s.pending = .offer w l :: es :=
  ⟨stateWith (idleWith 1 0) [.offer 0 Lines.calm], _, _, _, rfl⟩
theorem witness_StepTakesEventsInOrder :
    (∃ (s : State) (l : Lines) (es : List Event), s.pending = .tick l :: es) ∧
      (∃ (s : State) (es : List Event), s.pending = .reset :: es) ∧
      (∃ (s : State) (i : Instant) (is : List Instant), s.pending = [] ∧ s.inputs = i :: is) ∧
      (∃ (s : State) (i : Instant) (n : Nat), s.pending = [] ∧ s.inputs = [] ∧ tickDue s = n + 1 ∧
        i = Config.freeInstant s.instants ∧ n = 0) ∧
      ∃ (s : State) (i : Instant), s.pending = [] ∧ s.inputs = [] ∧ tickDue s = 0 ∧
        i = Config.freeInstant s.instants :=
  ⟨⟨stateWith (idleWith 1 0) [.tick dataLow], _, _, rfl⟩, ⟨stateWith (idleWith 1 0) [.reset], _, rfl⟩,
    ⟨{ State.reset with inputs := [⟨true, true, true, 0, dataLow, dataLow⟩] }, _, _, rfl, rfl⟩,
    ⟨{ State.reset with tickWithin := some 1 }, _, 0, rfl, rfl, rfl, rfl, rfl⟩,
    ⟨{ State.reset with tickWithin := some 0 }, _, rfl, rfl, rfl, rfl⟩⟩

/-- An instant with a tick and an offered `SCAN`. -/
def tickAndScan : Instant := ⟨false, true, true, 0, Lines.calm, Lines.calm⟩

/-- An instant with an offered `SCAN` whose reaction meets `l`. -/
def scanOffer (l : Lines) : Instant := ⟨false, false, true, 0, Lines.calm, l⟩

/-- An instant with a tick whose reaction meets `l`, and nothing on the port. -/
def tickOnly (l : Lines) : Instant := ⟨false, true, false, 0, l, Lines.calm⟩

/-- An engine with the instants that its environment lists. -/
def stateListing (e : Engine) (is : List Instant) : State := { State.reset with eng := e, inputs := is }

theorem witness_TickComesBeforeCommand :
    ∃ (s : State) (i : Instant) (is : List Instant), s.pending = [] ∧ s.inputs = i :: is ∧ i.rst = false ∧
      i.tick = true ∧ i.cmdValid = true :=
  ⟨{ State.reset with inputs := [tickAndScan] }, tickAndScan, [], by decide⟩
theorem witness_ResetOverridesItsInstant :
    ∃ (s : State) (i : Instant) (is : List Instant), s.pending = [] ∧ s.inputs = i :: is ∧ i.rst = true ∧
      i.tick = true ∧ i.cmdValid = true :=
  ⟨{ State.reset with inputs := [{ tickAndScan with rst := true }] }, { tickAndScan with rst := true }, [], by decide⟩
theorem witness_UnacceptedCommandHasNoEffect :
    (∃ s : State, s.eng.state ≠ .idle) ∧ (∃ s : State, s.eng.configured = false) ∧
      ∃ (s : State) (w : CmdWord) (l : Lines) (es : List Event), s.pending = .offer w l :: es ∧
        cmdReady s.eng w = false :=
  ⟨⟨stateWith (scanning 1 0 .clocking 0 .low 1 0 .low 0) [], by decide⟩, ⟨State.reset, by decide⟩,
    ⟨stateWith State.reset.eng [.offer 0 Lines.calm], 0, Lines.calm, [], by decide⟩⟩
theorem witness_ProbedWordIsRun : ∃ nbits : Nat, nbits ≤ 128 ∧ nbits = 128 := ⟨128, by decide⟩

/-- Rows 17 and 5 of section 2.2: both ends of the band with the smallest tick rate. -/
theorem witness_ConfigWritesDerivedConstants :
    (∃ (s : State) (t f : Operand), s.eng.state = .idle ∧ 1000 ≤ f.toNat ∧ f.toNat ≤ 512000 ∧
      2 * f.toNat ≤ t.toNat ∧ f = 1000 ∧ t = 2000) ∧
      ∃ (s : State) (t f : Operand), s.eng.state = .idle ∧ 1000 ≤ f.toNat ∧ f.toNat ≤ 512000 ∧
        2 * f.toNat ≤ t.toNat ∧ f = 512000 ∧ t = 1024000 :=
  ⟨⟨State.reset, 2000, 1000, by decide⟩, ⟨State.reset, 1024000, 512000, by decide⟩⟩
/-- Rows 3, 8 and 16 of section 2.2: just below the band, just above it, `t = 2f - 1`. -/
theorem witness_ConfigFailureClearsConfiguration :
    (∃ (s : State) (f : Operand), s.eng.state = .idle ∧ f.toNat < 1000 ∧ f = 999) ∧
      (∃ (s : State) (f : Operand), s.eng.state = .idle ∧ 512000 < f.toNat ∧ f = 512001) ∧
      ∃ (s : State) (t f : Operand), s.eng.state = .idle ∧ t.toNat < 2 * f.toNat ∧ f = 1000 ∧ t = 1999 :=
  ⟨⟨State.reset, 999, by decide⟩, ⟨State.reset, 512001, by decide⟩, ⟨State.reset, 1999, 1000, by decide⟩⟩
theorem witness_ConfigArithmeticIsExact :
    ∃ (s : State) (t f q : Operand), s.eng.state = .idle ∧ 1000 ≤ f.toNat ∧ f.toNat ≤ 512000 ∧
      2 * f.toNat ≤ t.toNat ∧ t = 4294967295 ∧ q = 4294967295 :=
  ⟨State.reset, 4294967295, 1000, 4294967295, by decide⟩
theorem witness_ConfigSucceedsExactlyWhenValid : ∃ s : State, s.eng.state = .idle := ⟨State.reset, by decide⟩
theorem witness_HalfPeriodZeroWhenTooFast :
    ∃ t f : Nat, 1 ≤ f ∧ t < 2 * f ∧ f = 1 ∧ t = 1 := ⟨1, 1, by decide⟩
theorem witness_ProducedClockAtOrAboveTarget : ∃ t f : Nat, 1 ≤ f ∧ 2 * f ≤ t ∧ f = 1 ∧ t = 2 := ⟨2, 1, by decide⟩
theorem witness_ConfigReplacesConfiguration : ∃ s : State, s.eng.state = .idle ∧ s.eng.configured = true :=
  ⟨stateWith (idleWith 50 1000) [], by decide⟩
theorem witness_ScanBeginsFirstCycle :
    ∃ s : State, s.eng.state = .idle ∧ s.eng.configured = true ∧ s.line.errDrive = false :=
  ⟨stateWith (idleWith 50 1000) [], by decide⟩
theorem witness_ScanAbortsAtFirstDrive :
    ∃ s : State, s.eng.state = .idle ∧ s.eng.configured = true ∧ s.line.errDrive = true :=
  ⟨{ stateWith (idleWith 50 1000) [] with line := driveFault }, by decide⟩
theorem witness_TickInIdleOnlyCountsTime :
    ∃ (s : State) (l : Lines) (es : List Event), s.pending = .tick l :: es ∧ s.eng.state = .idle :=
  ⟨stateWith (idleWith 50 1000) [.tick dataLow], dataLow, [], by decide⟩
theorem witness_TickCountsDownTheWait :
    ∃ (s : State) (l : Lines) (es : List Event), s.pending = .tick l :: es ∧ s.eng.state ≠ .idle ∧
      2 ≤ s.eng.cnt.toNat :=
  ⟨stateWith (scanning 50 1000 .clocking 0 .low 2 0 .low 48) [.tick dataLow], dataLow, [], by decide⟩
theorem witness_LowWaitEndsInSample :
    ∃ (s : State) (l : Lines) (es : List Event), s.pending = .tick l :: es ∧ s.eng.state = .clocking ∧
      s.eng.ph = .low ∧ s.eng.cnt = 1 ∧ l.errDrive = false ∧ l.errSample = false :=
  ⟨stateWith (scanning 50 1000 .clocking 15 .low 1 0 .low 1549) [.tick dataLow], dataLow, [], by decide⟩
theorem witness_HighWaitEndsInNextChannel :
    ∃ (s : State) (l : Lines) (es : List Event), s.pending = .tick l :: es ∧ s.eng.state = .clocking ∧
      s.eng.ph = .high ∧ s.eng.cnt = 1 ∧ s.eng.idx.toNat < 15 ∧ l.errDrive = false ∧ s.eng.idx = 14 :=
  ⟨stateWith (scanning 50 1000 .clocking 14 .high 1 0 .high 1499) [.tick Lines.calm], Lines.calm, [], by decide⟩
theorem witness_LastCycleEndsInQuietWait :
    ∃ (s : State) (l : Lines) (es : List Event), s.pending = .tick l :: es ∧ s.eng.state = .clocking ∧
      s.eng.ph = .high ∧ s.eng.cnt = 1 ∧ s.eng.idx = 15 ∧ s.eng.quiet ≠ 0 :=
  ⟨stateWith (scanning 50 1000 .clocking 15 .high 1 8 .high 1599) [.tick Lines.calm], Lines.calm, [], by decide⟩
theorem witness_ZeroQuietWaitRespondsAtOnce :
    ∃ (s : State) (l : Lines) (es : List Event), s.pending = .tick l :: es ∧ s.eng.state = .clocking ∧
      s.eng.ph = .high ∧ s.eng.cnt = 1 ∧ s.eng.idx = 15 ∧ s.eng.quiet = 0 :=
  ⟨stateWith (scanning 50 0 .clocking 15 .high 1 8 .high 1599) [.tick Lines.calm], Lines.calm, [], by decide⟩
theorem witness_QuietWaitEndsInResponse :
    ∃ (s : State) (l : Lines) (es : List Event), s.pending = .tick l :: es ∧ s.eng.state = .quietWait ∧
      s.eng.cnt = 1 :=
  ⟨stateWith (scanning 50 1000 .quietWait 15 .high 1 8 .high 2599) [.tick Lines.calm], Lines.calm, [], by decide⟩
theorem witness_LineFaultInTickAborts :
    (∃ (s : State) (l : Lines) (es : List Event), s.pending = .tick l :: es ∧ s.eng.state = .clocking ∧
      s.eng.ph = .low ∧ s.eng.cnt = 1 ∧ l.errDrive = true) ∧
      (∃ (s : State) (l : Lines) (es : List Event), s.pending = .tick l :: es ∧ s.eng.state = .clocking ∧
        s.eng.ph = .low ∧ s.eng.cnt = 1 ∧ l.errDrive = false ∧ l.errSample = true) ∧
      ∃ (s : State) (l : Lines) (es : List Event), s.pending = .tick l :: es ∧ s.eng.state = .clocking ∧
        s.eng.ph = .high ∧ s.eng.cnt = 1 ∧ s.eng.idx.toNat < 15 ∧ l.errDrive = true ∧ s.eng.idx = 14 :=
  ⟨⟨stateWith (scanning 2 5 .clocking 0 .low 1 0 .low 1) [.tick driveFault], driveFault, [], by decide⟩,
    ⟨stateWith (scanning 2 5 .clocking 15 .low 1 0 .low 61) [.tick readFault], readFault, [], by decide⟩,
    ⟨stateWith (scanning 2 5 .clocking 14 .high 1 0 .high 59) [.tick driveFault], driveFault, [], by decide⟩⟩
theorem witness_FrameBitWriteIsLocal : ∃ i : Nat, i < 16 ∧ i = 15 := ⟨15, by decide⟩
theorem witness_NoLineDriverNoLineFault : ∃ p : Params, p.hasLineErr = false :=
  ⟨{ Config.params with hasLineErr := false }, rfl⟩

/-- A state in mid-scan that meets every invariant of the engine, one tick before the first sample. -/
def midScan : State :=
  stateWith { scanning 1 3 .clocking 0 .low 1 0 .low 0 with trace := [⟨0, .clkLow⟩] } [.tick dataLow]

theorem witness_ConfigurationInvariantKept : ∃ s t : State, ConfigInv s.eng ∧ step s = .next t :=
  ⟨midScan, _, .inl (by decide), rfl⟩
theorem witness_ConfigurationRangesKept : ∃ s t : State, ConfigBounds Config.params s.eng ∧ step s = .next t :=
  ⟨midScan, _, fun _ => by decide, rfl⟩
theorem witness_RestingInvariantKept : ∃ s t : State, ConfigInv s.eng ∧ RestInv s.eng ∧ step s = .next t :=
  ⟨midScan, _, .inl (by decide), ⟨fun h => absurd h (by decide), fun _ => by decide⟩, rfl⟩
theorem witness_WaitBoundsKept : ∃ s t : State, WaitBounds s.eng ∧ step s = .next t :=
  ⟨midScan, _, ⟨fun _ => by decide, fun h => absurd h (by decide)⟩, rfl⟩
theorem witness_ClockLevelOfPositionKept : ∃ s t : State, ClockInv s.eng ∧ step s = .next t :=
  ⟨midScan, _, ⟨fun _ _ => by decide, fun _ h => absurd h (by decide), fun h => absurd h (by decide)⟩, rfl⟩
theorem witness_UnsampledBitsStayZero : ∃ s t : State, AccInv s.eng ∧ step s = .next t :=
  ⟨midScan, _, fun _ => by decide, rfl⟩
theorem witness_TraceStampsStayOrdered : ∃ s t : State, StampsOrdered s.eng ∧ step s = .next t :=
  ⟨midScan, _, ⟨by decide, by decide⟩, rfl⟩
theorem witness_ClockLineFollowsTrace : ∃ s t : State, WaveformInv Config.params s.eng ∧ step s = .next t :=
  ⟨midScan, _, rfl, rfl⟩
theorem witness_ResponseRegisterKept :
    ∃ s t : State, ResponseInv s.eng ∧ RspWord.wf s.eng.rsp = true ∧ step s = .next t :=
  ⟨midScan, _, rfl, by decide, rfl⟩
theorem witness_SequencerFollowsSuccessors :
    (∃ s t : State, s.pending.head? ≠ some .reset ∧ step s = .next t ∧ positionOf t.eng ≠ positionOf s.eng) ∧
      (∃ s t : State, s.pending.head? ≠ some .reset ∧ step s = .next t ∧
        positionOf s.eng = .clocking 15 .high ∧ positionOf t.eng = .idle) ∧
      (∃ s t : State, s.pending.head? = some .reset ∧ step s = .next t) ∧
      (∃ s t : State, s.pending = [] ∧ step s = .next t) ∧
      (∃ (s t : State) (w : CmdWord) (l : Lines), s.pending.head? = some (.offer w l) ∧ step s = .next t) ∧
      (∃ (s t : State) (l : Lines), s.pending.head? = some (.tick l) ∧ step s = .next t ∧ s.eng.cnt.toNat = 1 ∧
        positionOf s.eng = .clocking 14 .high) ∧
      (∃ (s t : State) (w : CmdWord) (l : Lines), s.pending.head? = some (.offer w l) ∧ step s = .next t ∧
        cmdReady s.eng w = false ∧ decode w = .scan ∧ positionOf s.eng = .idle) ∧
      (∃ (s t : State) (w : CmdWord) (l : Lines), s.pending.head? = some (.offer w l) ∧ step s = .next t ∧
        cmdReady s.eng w = false ∧ decode w ≠ .scan ∧ positionOf s.eng = .quietWait) ∧
      (∃ (s t : State) (l : Lines), s.pending.head? = some (.tick l) ∧ step s = .next t ∧ s.eng.cnt.toNat = 1 ∧
        positionOf s.eng = .clocking 15 .high ∧ positionOf t.eng = .quietWait) ∧
      (∃ (s t : State) (l : Lines), s.pending.head? = some (.tick l) ∧ step s = .next t ∧ s.eng.cnt.toNat = 1 ∧
        positionOf s.eng = .quietWait ∧ positionOf t.eng = .idle) ∧
      ∃ (s t : State) (l : Lines), s.pending.head? = some (.tick l) ∧ step s = .next t ∧ s.eng.cnt.toNat = 2 ∧
        positionOf s.eng = .quietWait :=
  ⟨⟨midScan, takeTick dataLow { midScan with pending := [] }, by decide, rfl, by decide⟩,
    ⟨stateWith (scanning 1 0 .clocking 15 .high 1 8 .high 31) [.tick dataLow],
      takeTick dataLow (stateWith (scanning 1 0 .clocking 15 .high 1 8 .high 31) []), by decide, rfl, by decide,
      by decide⟩,
    ⟨stateWith midScan.eng [.reset], takeReset (stateWith midScan.eng []), by decide, rfl⟩,
    ⟨State.reset, _, rfl, rfl⟩,
    ⟨stateWith (idleWith 1 0) [.offer 0 Lines.calm], _, 0, Lines.calm, by decide, rfl⟩,
    ⟨stateWith (scanning 1 0 .clocking 14 .high 1 8 .high 29) [.tick dataLow], _, dataLow, by decide, rfl, by decide,
      by decide⟩,
    ⟨stateWith State.reset.eng [.offer 0 Lines.calm], _, 0, Lines.calm, rfl, rfl, by decide, by decide, rfl⟩,
    ⟨stateWith (scanning 1 3 .quietWait 15 .high 3 8 .high 32) [.offer (encode (.config 2000 1000 5)) Lines.calm], _,
      encode (.config 2000 1000 5), Lines.calm, rfl, rfl, by decide, by decide, rfl⟩,
    ⟨stateWith (scanning 1 3 .clocking 15 .high 1 8 .high 31) [.tick dataLow],
      takeTick dataLow (stateWith (scanning 1 3 .clocking 15 .high 1 8 .high 31) []), dataLow, rfl, rfl, by decide,
      by decide, by decide⟩,
    ⟨stateWith (scanning 1 3 .quietWait 15 .high 1 8 .high 34) [.tick dataLow],
      takeTick dataLow (stateWith (scanning 1 3 .quietWait 15 .high 1 8 .high 34) []), dataLow, rfl, rfl, by decide,
      by decide, by decide⟩,
    ⟨stateWith (scanning 1 3 .quietWait 15 .high 2 8 .high 33) [.tick dataLow], _, dataLow, rfl, rfl, by decide, rfl⟩⟩
theorem witness_OnlyConfigWritesConfiguration :
    ∃ s t : State, s.pending.head? ≠ some .reset ∧
      (∀ w l, s.pending.head? = some (.offer w l) → decode w = .scan) ∧ step s = .next t :=
  ⟨midScan, _, by decide, fun w l h => by simp [midScan, stateWith] at h, rfl⟩
theorem witness_PartialFrameIsInvisible :
    (∃ (s t u : State) (a : Frame), step s = .next t ∧
      step { s with eng := { s.eng with acc := a } } = .next u ∧ t.eng.state ≠ .idle ∧ a ≠ s.eng.acc) ∧
      ∃ (s t u : State) (a : Frame), step s = .next t ∧
        step { s with eng := { s.eng with acc := a } } = .next u ∧ s.pending.head? = some .reset ∧
        s.eng.state ≠ .idle ∧ a ≠ s.eng.acc :=
  ⟨⟨midScan, _, _, 0x8000, rfl, rfl, by decide, by decide⟩,
    ⟨stateWith midScan.eng [.reset], _, _, 0x8000, rfl, rfl, by decide, by decide, by decide⟩⟩
theorem witness_ResponseOncePerCommand :
    ∃ s t : State, s.pending.head? ≠ some .reset ∧ step s = .next t ∧ rspValid s.eng t.eng = true :=
  ⟨stateWith State.reset.eng [.offer (encode (.config 2000 1000 5)) Lines.calm], _, by decide, rfl, by decide⟩

theorem witness_EnvironmentKeepsMoving :
    ∃ (s : State) (is rest : List Instant), s.pending = [] ∧ s.inputs = is ++ rest ∧ is = [tickAndScan] :=
  ⟨stateListing State.reset.eng [tickAndScan, tickAndScan], [tickAndScan], [tickAndScan], rfl, rfl, rfl⟩

/-- P5 after its second `CONFIG`: the host keeps the `SCAN` on offer while ticks pass. -/
def stuckRun : State :=
  { stateListing State.reset.eng [tickAndScan, tickAndScan] with pending := [.offer 0 Lines.calm], port := some 0 }

/-- P5: the run is stuck, not final. -/
theorem test_p5_is_stuck : StuckFor 7 stuckRun 0 := by
  refine ⟨⟨rfl, rfl, rfl, by decide⟩, fun j t hj h => ?_⟩
  match j, hj with
  | 0, _ | 1, _ | 2, _ | 3, _ | 4, _ | 5, _ | 6, _ | 7, _ => cases h; rfl

theorem witness_EndsOfRuns :
    (∃ (s : State) (w : CmdWord) (l : Lines) (es : List Event), s.pending = .offer w l :: es ∧
        cmdReady s.eng w = false) ∧
      (∃ (s : State) (w : CmdWord) (l : Lines) (es : List Event), s.pending = .offer w l :: es ∧
        cmdReady s.eng w = true) ∧
      (∃ (k : Nat) (s : State) (w : CmdWord), StuckFor k s w ∧ k = 7) ∧ ∃ s : State, Final s :=
  ⟨⟨stuckRun, 0, Lines.calm, [], by decide⟩,
    ⟨stateWith (idleWith 1 0) [.offer 0 Lines.calm], 0, Lines.calm, [], by decide⟩,
    ⟨7, stuckRun, 0, test_p5_is_stuck, rfl⟩, ⟨State.reset, rfl, fun w h => by cases h⟩⟩

/-- A configured engine whose environment lists an offered `SCAN`, then ticks with a `SCAN` still on offer, then one
without: a whole scan with the shortest half period and no quiet wait. -/
def wholeScan : State :=
  stateListing (idleWith 1 0) (scanOffer Lines.calm :: List.replicate 31 tickAndScan ++ [tickOnly Lines.calm])

/-- What happens in it. -/
def wholeScanEvents : List Event := (List.replicate 31 tickAndScan ++ [tickOnly Lines.calm]).flatMap eventsOf

theorem wholeScan_happened : happened 97 wholeScan = .offer 0 (calmEnv 0) :: wholeScanEvents := by decide +kernel

theorem witness_ScanKeepsItsSchedule :
    (∃ (k : Nat) (s : State) (env : Nat → Lines) (w : CmdWord) (es : List Event) (n : Nat), s.eng.state = .idle ∧
      s.eng.configured = true ∧ 1 ≤ s.eng.half.toNat ∧ decode w = .scan ∧
      happened k s = .offer w (env s.eng.now) :: es ∧ noReset es = true ∧ ticksOnly es = tickEvents env s.eng.now n ∧
      (∀ m, m < 48 → accessOffset s.eng.half.toNat m ≤ n →
        accessFaults Config.params env s.eng.now s.eng.half.toNat m = false) ∧
      n = scanTicks s.eng.half.toNat s.eng.quiet.toNat ∧ endsInTick es = true) ∧
    ∃ (k : Nat) (s : State) (env : Nat → Lines) (w : CmdWord) (es : List Event) (n : Nat), s.eng.state = .idle ∧
      s.eng.configured = true ∧ 1 ≤ s.eng.half.toNat ∧ decode w = .scan ∧
      happened k s = .offer w (env s.eng.now) :: es ∧ noReset es = true ∧ ticksOnly es = tickEvents env s.eng.now n ∧
      (∀ m, m < 48 → accessOffset s.eng.half.toNat m ≤ n →
        accessFaults Config.params env s.eng.now s.eng.half.toNat m = false) ∧
      n = 1 ∧ n < scanTicks s.eng.half.toNat s.eng.quiet.toNat :=
  ⟨⟨97, wholeScan, calmEnv, 0, wholeScanEvents, 32, by decide, by decide, by decide, by decide, wholeScan_happened,
      rfl, rfl, fun m _ _ => by unfold accessFaults; split <;> rfl, rfl, rfl⟩,
    ⟨4, stateListing (idleWith 1 0) [scanOffer Lines.calm, tickOnly Lines.calm], calmEnv, 0, [.tick Lines.calm], 1,
      by decide, by decide, by decide, by decide, rfl, rfl, rfl,
      fun m _ _ => by unfold accessFaults; split <;> rfl, rfl, by decide⟩⟩

/-- A scan that the first read ends. -/
def faultAtFirstRead : State := stateListing (idleWith 1 0) [scanOffer readFault, tickOnly readFault]

theorem witness_BlockingFormAgrees :
    (∃ (k : Nat) (s t : State) (env : Nat → Lines) (w : CmdWord) (es : List Event) (n : Nat), s.eng.state = .idle ∧
      s.eng.configured = true ∧ 1 ≤ s.eng.half.toNat ∧ decode w = .scan ∧
      happened k s = .offer w (env s.eng.now) :: es ∧ noReset es = true ∧ ticksOnly es = tickEvents env s.eng.now n ∧
      (∀ j u, j < k → runSteps j s = .next u → u.eng.state = .idle → happened j s = []) ∧
      runSteps k s = .next t ∧ t.eng.state = .idle) ∧
    ∃ (k : Nat) (s t : State) (env : Nat → Lines) (w : CmdWord) (es : List Event) (n : Nat), s.eng.state = .idle ∧
      s.eng.configured = true ∧ 1 ≤ s.eng.half.toNat ∧ decode w = .scan ∧
      happened k s = .offer w (env s.eng.now) :: es ∧ noReset es = true ∧ ticksOnly es = tickEvents env s.eng.now n ∧
      (∀ j u, j < k → runSteps j s = .next u → u.eng.state = .idle → happened j s = []) ∧
      runSteps k s = .next t ∧ t.eng.state = .clocking ∧ n = 1 := by
  refine ⟨⟨4, faultAtFirstRead, _, readFaultEnv, 0, [.tick readFault], 1, by decide, by decide, by decide, by decide,
    rfl, rfl, rfl, fun j u hj h hi => ?_, rfl, rfl⟩,
    ⟨4, stateListing (idleWith 2 5) [scanOffer Lines.calm, tickOnly Lines.calm], _, calmEnv, 0, [.tick Lines.calm], 1,
      by decide, by decide, by decide, by decide, rfl, rfl, rfl, fun j u hj h hi => ?_, rfl, rfl, rfl⟩⟩
  all_goals
    match j, hj with
    | 0, _ | 1, _ => rfl
    | 2, _ | 3, _ => cases h; cases hi

/-- Faults at the first drive, at the first read and at the last read. -/
theorem witness_LineFaultEndsScanAtItsAccess :
    ∀ n ∈ [0, 2, 47],
    ∃ (k : Nat) (s : State) (env : Nat → Lines) (w : CmdWord) (es : List Event), s.eng.state = .idle ∧
      s.eng.configured = true ∧ 1 ≤ s.eng.half.toNat ∧ decode w = .scan ∧ n < 48 ∧
      happened k s = .offer w (env s.eng.now) :: es ∧ noReset es = true ∧ endsInTick es = true ∧
      ticksOnly es = tickEvents env s.eng.now (accessOffset s.eng.half.toNat n) ∧
      (∀ m, m < n → accessFaults Config.params env s.eng.now s.eng.half.toNat m = false) ∧
      accessFaults Config.params env s.eng.now s.eng.half.toNat n = true := by
  intro n hn
  simp only [List.mem_cons, List.not_mem_nil, or_false] at hn
  obtain rfl | rfl | rfl := hn
  · exact ⟨2, stateListing (idleWith 1 0) [scanOffer driveFault], fun _ => driveFault, 0, [], by decide, by decide,
      by decide, by decide, by decide, rfl, rfl, rfl, rfl, by decide, by decide⟩
  · exact ⟨4, faultAtFirstRead, readFaultEnv, 0, [.tick readFault], by decide, by decide, by decide, by decide,
      by decide, rfl, rfl, rfl, rfl, by decide, by decide⟩
  · exact ⟨64, stateListing (idleWith 1 0)
        (scanOffer Lines.calm :: List.replicate 30 (tickOnly Lines.calm) ++ [tickOnly readFault]),
      fun t => if t = 31 then readFault else Lines.calm, 0,
      List.replicate 30 (.tick Lines.calm) ++ [.tick readFault], by decide, by decide, by decide, by decide,
      by decide, by decide +kernel, rfl, rfl, rfl, by decide,
      by decide⟩

/-- In the quiet wait, two ticks with a `SCAN` on offer at both. -/
def inQuietWait : State := stateListing (scanning 1 3 .quietWait 15 .high 3 8 .high 32) [tickAndScan, tickAndScan]

theorem inQuietWait_inv : ConfigInv inQuietWait.eng ∧ RestInv inQuietWait.eng ∧ ClockInv inQuietWait.eng :=
  ⟨.inl (by decide), ⟨fun h => absurd h (by decide), fun _ => by decide⟩,
    ⟨fun h => absurd h (by decide), fun h => absurd h (by decide), fun _ => by decide⟩⟩

theorem witness_QuietIsNeverShortened :
    ∃ (k : Nat) (s : State), ConfigInv s.eng ∧ RestInv s.eng ∧ ClockInv s.eng ∧ s.eng.state = .quietWait ∧
      noReset (happened k s) = true ∧ tickCount (happened k s) < ticksLeft s.eng ∧ tickCount (happened k s) = 2 ∧
      Event.offer 0 Lines.calm ∈ happened k s :=
  ⟨6, inQuietWait, inQuietWait_inv.1, inQuietWait_inv.2.1, inQuietWait_inv.2.2, by decide, by decide, by decide,
    by decide, by decide⟩
theorem witness_OffersDoNotDisturbScan :
    ∃ (k k' : Nat) (s s' t u : State), s'.eng = s.eng ∧ runSteps k s = .next t ∧ runSteps k' s' = .next u ∧
      noReset (happened k s) = true ∧ happened k' s' = ticksOnly (happened k s) ∧
      (∀ j v, j < k → runSteps j s = .next v → v.eng.state ≠ .idle) ∧
      Event.offer 0 Lines.calm ∈ happened k s := by
  refine ⟨6, 4, inQuietWait,
    stateListing inQuietWait.eng [tickOnly Lines.calm, tickOnly Lines.calm], _, _, rfl, rfl, rfl, by decide, rfl,
    fun j v hj h => ?_, by decide⟩
  match j, hj with
  | 0, _ | 1, _ | 2, _ | 3, _ | 4, _ | 5, _ => cases h; decide
theorem witness_ScanTerminates :
    ∃ (k : Nat) (s : State), ConfigInv s.eng ∧ RestInv s.eng ∧ ticksLeft s.eng ≤ tickCount (happened k s) ∧
      s.eng.state ≠ .idle :=
  ⟨4, stateListing (scanning 1 3 .quietWait 15 .high 2 8 .high 33) [tickOnly dataLow, tickOnly dataLow],
    .inl (by decide), ⟨fun h => absurd h (by decide), fun _ => by decide⟩, by decide, by decide⟩
theorem witness_UnconfiguredScanWaits :
    ∃ (k : Nat) (s : State), s.eng.state = .idle ∧ s.eng.configured = false ∧ noReset (happened k s) = true ∧
      (∀ w l, Event.offer w l ∈ happened k s → decode w = .scan) ∧ tickCount (happened k s) = 1 ∧
      Event.offer 0 Lines.calm ∈ happened k s := by
  have h : happened 3 (stateListing State.reset.eng [tickAndScan]) = [.tick Lines.calm, .offer 0 Lines.calm] := rfl
  refine ⟨3, stateListing State.reset.eng [tickAndScan], rfl, rfl, by decide, fun w l hm => ?_, by decide, by decide⟩
  simp [h] at hm; rw [hm.1]; decide
theorem witness_NextScanStartsAtResponse :
    (∃ (s : State) (i : Instant) (is : List Instant), s.pending = [] ∧ s.inputs = i :: is ∧ i.rst = false ∧
      i.tick = true ∧ i.cmdValid = true ∧ decode i.cmd = .scan ∧ i.cmdLine.errDrive = false ∧
      s.eng.state = .quietWait ∧ s.eng.cnt = 1 ∧ s.eng.configured = true) ∧
    ∃ (s : State) (i : Instant) (is : List Instant), s.pending = [] ∧ s.inputs = i :: is ∧ i.rst = false ∧
      i.tick = true ∧ i.cmdValid = true ∧ decode i.cmd = .scan ∧ i.cmdLine.errDrive = false ∧
      s.eng.state = .clocking ∧ s.eng.ph = .high ∧ s.eng.idx = 15 ∧ s.eng.quiet = 0 ∧ s.eng.cnt = 1 ∧
      s.eng.configured = true :=
  ⟨⟨stateListing (scanning 1 3 .quietWait 15 .high 1 0x8001 .high 34) [tickAndScan], tickAndScan, [], by decide⟩,
    ⟨stateListing (scanning 1 0 .clocking 15 .high 1 0x8001 .high 31) [tickAndScan], tickAndScan, [], by decide⟩⟩

end Sys2Proof.Tests
end

/-! ## What a step does to the engine

`Reacts` lists the reactions of the engine, one constructor for each way through R62, R76, R95 and R156, with the event
that causes it. `step_reacts` ties it to `step`; the invariants of the registers are read off its constructors. -/

namespace Sys2Proof.Machine

/-! ### Missing field lemmas -/

@[simp] theorem configSucceeds_configured (h q : Nat) (e : Engine) : (configSucceeds h q e).configured = true := rfl
@[simp] theorem configSucceeds_half (h q : Nat) (e : Engine) : (configSucceeds h q e).half = BitVec.ofNat 32 h := rfl
@[simp] theorem configSucceeds_quiet (h q : Nat) (e : Engine) : (configSucceeds h q e).quiet = BitVec.ofNat 48 q := rfl
@[simp] theorem configSucceeds_state (h q : Nat) (e : Engine) : (configSucceeds h q e).state = e.state := rfl
@[simp] theorem configSucceeds_idx (h q : Nat) (e : Engine) : (configSucceeds h q e).idx = e.idx := rfl
@[simp] theorem configSucceeds_ph (h q : Nat) (e : Engine) : (configSucceeds h q e).ph = e.ph := rfl
@[simp] theorem configSucceeds_cnt (h q : Nat) (e : Engine) : (configSucceeds h q e).cnt = e.cnt := rfl
@[simp] theorem configSucceeds_rsp (h q : Nat) (e : Engine) : (configSucceeds h q e).rsp = 0x00040000 := rfl
@[simp] theorem configSucceeds_trace (h q : Nat) (e : Engine) :
    (configSucceeds h q e).trace = e.trace ++ [⟨e.now, .rsp 0x00040000⟩] := rfl

/-! ### Acceptance -/

/-- The port's `cmd_ready` and the meaning of the decoded instruction ask the same (R31, R62). -/
theorem accepts_decode (e : Engine) (w : CmdWord) : accepts e (decode w) = cmdReady e w := by
  cases h : cmdOpBit w <;> simp [decode, accepts, cmdReady, h]

/-! ### The reactions -/

/-- `Reacts ev e e'`: the event `ev` (or none, when an instant is presented) takes the engine `e` to `e'`. -/
inductive Reacts : Option Event → Engine → Engine → Prop
  /-- An instant is presented: no move of the engine. -/
  | present (e : Engine) : Reacts none e e
  | reset (e : Engine) : Reacts (some .reset) e (Engine.resetWith Config.params)
  /-- A word that is not accepted waits (R31, R62). -/
  | waits {e : Engine} {w : CmdWord} (l : Lines) (hready : cmdReady e w = false) : Reacts (some (.offer w l)) e e
  | startsScan {e : Engine} {w : CmdWord} {l : Lines} (hdecode : decode w = .scan) (hstate : e.state = .idle)
      (hconf : e.configured = true) (hdrive : l.errDrive = false) :
      Reacts (some (.offer w l)) e (waitHalf .low (driveClk .low { e with acc := 0, idx := 0, state := .clocking }))
  | abortsStart {e : Engine} {w : CmdWord} {l : Lines} (hdecode : decode w = .scan) (hstate : e.state = .idle)
      (hconf : e.configured = true) (hdrive : l.errDrive = true) :
      Reacts (some (.offer w l)) e (raise .lineError { e with acc := 0, idx := 0, state := .clocking })
  | configures {e : Engine} {w : CmdWord} {t f q : Operand} (l : Lines) (hdecode : decode w = .config t f q)
      (hstate : e.state = .idle) (hband : inBand Config.params f.toNat = true)
      (hhalf : halfPeriod t.toNat f.toNat ≠ 0) :
      Reacts (some (.offer w l)) e
        (configSucceeds (halfPeriod t.toNat f.toNat) (quietPeriod q.toNat t.toNat) e)
  | rejectsConfig {e : Engine} {w : CmdWord} {t f q : Operand} (l : Lines) (hdecode : decode w = .config t f q)
      (hstate : e.state = .idle) : Reacts (some (.offer w l)) e (raise .frequencyOutOfRange e)
  | idles {e : Engine} (l : Lines) (hstate : e.state = .idle) :
      Reacts (some (.tick l)) e { e with now := e.now + 1 }
  | counts {e : Engine} (l : Lines) (hstate : e.state ≠ .idle) (hcnt : 2 ≤ e.cnt.toNat) :
      Reacts (some (.tick l)) e { e with now := e.now + 1, cnt := countDown e.cnt }
  | samples {e : Engine} {l : Lines} (hstate : e.state = .clocking) (hph : e.ph = .low) (hcnt : e.cnt.toNat ≤ 1)
      (hdrive : l.errDrive = false) (hread : l.errSample = false) :
      Reacts (some (.tick l)) e
        (waitHalf .high (storeSample l.data (driveClk .high { e with now := e.now + 1, cnt := 0 })))
  | abortsDriveHigh {e : Engine} {l : Lines} (hstate : e.state = .clocking) (hph : e.ph = .low)
      (hcnt : e.cnt.toNat ≤ 1) (hdrive : l.errDrive = true) :
      Reacts (some (.tick l)) e (raise .lineError { e with now := e.now + 1, cnt := 0 })
  | abortsSample {e : Engine} {l : Lines} (hstate : e.state = .clocking) (hph : e.ph = .low)
      (hcnt : e.cnt.toNat ≤ 1) (hdrive : l.errDrive = false) (hread : l.errSample = true) :
      Reacts (some (.tick l)) e (raise .lineError (driveClk .high { e with now := e.now + 1, cnt := 0 }))
  | nextCycle {e : Engine} {l : Lines} (hstate : e.state = .clocking) (hph : e.ph = .high) (hcnt : e.cnt.toNat ≤ 1)
      (hidx : e.idx.toNat < 15) (hdrive : l.errDrive = false) :
      Reacts (some (.tick l)) e
        (waitHalf .low (driveClk .low { e with now := e.now + 1, cnt := 0, idx := e.idx + 1 }))
  | abortsDriveLow {e : Engine} {l : Lines} (hstate : e.state = .clocking) (hph : e.ph = .high)
      (hcnt : e.cnt.toNat ≤ 1) (hidx : e.idx.toNat < 15) (hdrive : l.errDrive = true) :
      Reacts (some (.tick l)) e (raise .lineError { e with now := e.now + 1, cnt := 0, idx := e.idx + 1 })
  | entersQuiet {e : Engine} (l : Lines) (hstate : e.state = .clocking) (hph : e.ph = .high)
      (hcnt : e.cnt.toNat ≤ 1) (hidx : e.idx = 15) (hquiet : e.quiet ≠ 0) :
      Reacts (some (.tick l)) e { e with now := e.now + 1, state := .quietWait, cnt := e.quiet }
  | skipsQuiet {e : Engine} (l : Lines) (hstate : e.state = .clocking) (hph : e.ph = .high)
      (hcnt : e.cnt.toNat ≤ 1) (hidx : e.idx = 15) (hquiet : e.quiet = 0) :
      Reacts (some (.tick l)) e (respondFrame { e with now := e.now + 1, state := .quietWait, cnt := 0 })
  | endsQuiet {e : Engine} (l : Lines) (hstate : e.state = .quietWait) (hcnt : e.cnt.toNat ≤ 1) :
      Reacts (some (.tick l)) e (respondFrame { e with now := e.now + 1, cnt := 0 })

/-- An accepted `SCAN` is one of the listed reactions. -/
theorem startScan_reacts {w : CmdWord} (l : Lines) {e : Engine} (hdecode : decode w = .scan)
    (haccept : accepts e .scan = true) : Reacts (some (.offer w l)) e (startScan Config.params l e) := by
  obtain ⟨hstate, hconf⟩ := (accepts_scan e).1 haccept
  unfold startScan
  obtain ⟨hdrive, heq⟩ | ⟨hdrive, heq⟩ :=
    driveLow_cases Config.params l { e with acc := 0, idx := 0, state := .clocking }
  · rw [heq]; exact .startsScan hdecode hstate hconf hdrive
  · rw [heq]; exact .abortsStart hdecode hstate hconf hdrive

/-- An accepted `CONFIG` is one of the listed reactions. -/
theorem configure_reacts {w : CmdWord} {t f q : Operand} (l : Lines) {e : Engine} (hdecode : decode w = .config t f q)
    (haccept : accepts e (.config t f q) = true) :
    Reacts (some (.offer w l)) e (configure Config.params t f q e) := by
  have hstate := (accepts_config e t f q).1 haccept
  obtain ⟨hband, hhalf, heq⟩ | ⟨-, heq⟩ := configure_cases Config.params t f q e
  · rw [heq]; exact .configures l hdecode hstate hband hhalf
  · rw [heq]; exact .rejectsConfig l hdecode hstate

/-- The reaction to a tick is one of the listed reactions. -/
theorem onTick_reacts (l : Lines) (e : Engine) : Reacts (some (.tick l)) e (onTick Config.params l e) := by
  obtain ⟨hs, heq⟩ | ⟨hs, hc, heq⟩ | ⟨hs, hp, hc, heq⟩ | ⟨hs, hp, hc, heq⟩ | ⟨hs, hc, heq⟩ :=
    onTick_cases Config.params l e
  · rw [heq]; exact .idles l hs
  · rw [heq]; exact .counts l hs hc
  · obtain ⟨hd, hr, heq'⟩ | ⟨hd, heq'⟩ | ⟨hd, hr, heq'⟩ :=
      driveHighAndSample_cases Config.params l { e with now := e.now + 1, cnt := 0 }
    · rw [heq, heq']; exact .samples hs hp hc hd hr
    · rw [heq, heq']; exact .abortsDriveHigh hs hp hc hd
    · rw [heq, heq']; exact .abortsSample hs hp hc hd hr
  · obtain ⟨hi, heq'⟩ | ⟨hi, heq'⟩ := nextChannel_cases Config.params l { e with now := e.now + 1, cnt := 0 }
    · obtain ⟨hd, heq''⟩ | ⟨hd, heq''⟩ :=
        driveLow_cases Config.params l { e with now := e.now + 1, cnt := 0, idx := e.idx + 1 }
      · rw [heq, heq', heq'']; exact .nextCycle hs hp hc hi hd
      · rw [heq, heq', heq'']; exact .abortsDriveLow hs hp hc hi hd
    · obtain ⟨hq, heq''⟩ | ⟨hq, heq''⟩ := enterQuiet_cases { e with now := e.now + 1, cnt := 0 }
      · rw [heq, heq', heq'']; exact .entersQuiet l hs hp hc hi hq
      · rw [heq, heq', heq'']; exact .skipsQuiet l hs hp hc hi hq
  · rw [heq]; exact .endsQuiet l hs hc

/-- Every step is a reaction of the engine to the event it processes. -/
theorem step_reacts {s t : State} (h : step s = .next t) : Reacts s.pending.head? s.eng t.eng := by
  obtain ⟨hp, rfl⟩ | ⟨es, hp, rfl⟩ | ⟨l, es, hp, rfl⟩ | ⟨w, l, es, hp, hd, ha, rfl⟩ |
    ⟨w, l, es, a, b, c, hp, hd, ha, rfl⟩ | ⟨w, l, es, hp, ha, rfl⟩ := step_cases h
  all_goals rw [hp]
  · rw [presentInstant_eng]; exact .present _
  · exact .reset _
  · exact onTick_reacts l s.eng
  · exact startScan_reacts l hd ha
  · exact configure_reacts l hd ha
  · exact .waits l ((accepts_decode s.eng w).symm.trans ha)

end Sys2Proof.Machine

/-! ## The invariants of the registers

For each invariant: how it comes to hold or is kept by every reaction, and from that the statement about `step`. -/

namespace Sys2Proof.Machine

/-! ### The configuration registers (R14 to R17) -/

/-- Only an accepted `CONFIG` and `Reset` write the configuration registers. -/
theorem Reacts.config_unchanged {ev : Option Event} {e e' : Engine} (h : Reacts ev e e') (hreset : ev ≠ some .reset)
    (hscan : ∀ w l, ev = some (.offer w l) → decode w = .scan) :
    e'.configured = e.configured ∧ e'.half = e.half ∧ e'.quiet = e.quiet := by
  cases h with
  | reset => exact absurd rfl hreset
  | configures l hdecode => simp [hdecode] at hscan
  | rejectsConfig l hdecode => simp [hdecode] at hscan
  | _ => simp

/-- What a reaction can do to the configuration registers: keep them, clear them, or write the quotients of operands
that passed the band check. -/
theorem Reacts.config_cases {ev : Option Event} {e e' : Engine} (h : Reacts ev e e') :
    (e'.configured = e.configured ∧ e'.half = e.half ∧ e'.quiet = e.quiet) ∨
      (e'.configured = false ∧ e'.half = 0 ∧ e'.quiet = 0) ∨
      (∃ t f q : Operand, inBand Config.params f.toNat = true ∧ halfPeriod t.toNat f.toNat ≠ 0 ∧
        e'.configured = true ∧ e'.half = BitVec.ofNat 32 (halfPeriod t.toNat f.toNat) ∧
        e'.quiet = BitVec.ofNat 48 (quietPeriod q.toNat t.toNat)) := by
  cases h with
  | reset => exact .inr (.inl ⟨rfl, rfl, rfl⟩)
  | configures l hdecode hstate hband hhalf => exact .inr (.inr ⟨_, _, _, hband, hhalf, rfl, rfl, rfl⟩)
  | rejectsConfig => exact .inr (.inl ⟨rfl, rfl, rfl⟩)
  | _ => exact .inl ⟨rfl, rfl, rfl⟩

/-- The half period of an accepted frequency lies below its largest value and fits `HALF`. -/
theorem halfPeriod_le {f : Nat} (hband : inBand Config.params f = true) (t : Operand) :
    halfPeriod t.toNat f ≤ (2 ^ 32 - 1) / (2 * 1000) := by
  have hf : 1000 ≤ f := of_decide_eq_true (Bool.and_eq_true_iff.1 hband).1
  exact Nat.div_le_div (Nat.le_sub_one_of_lt t.isLt) (by omega) (by omega)

/-- `HALF` holds the half period of an accepted frequency exactly (R86). -/
theorem halfPeriod_toNat {f : Nat} (hband : inBand Config.params f = true) (t : Operand) :
    (BitVec.ofNat 32 (halfPeriod t.toNat f)).toNat = halfPeriod t.toNat f := by
  have := halfPeriod_le hband t
  rw [BitVec.toNat_ofNat, Nat.mod_eq_of_lt (by omega)]

/-- The quiet period of any operands lies below that of the largest ones. -/
theorem quietPeriod_le (q t : Operand) : quietPeriod q.toNat t.toNat ≤ 18446744065119 :=
  Nat.div_le_div_right (c := 1000000)
    (Nat.mul_le_mul (Nat.le_sub_one_of_lt q.isLt) (Nat.le_sub_one_of_lt t.isLt))

/-- `QUIET` holds the quiet period of any operands exactly (R86). -/
theorem quietPeriod_toNat (q t : Operand) :
    (BitVec.ofNat 48 (quietPeriod q.toNat t.toNat)).toNat = quietPeriod q.toNat t.toNat := by
  have := quietPeriod_le q t
  rw [BitVec.toNat_ofNat, Nat.mod_eq_of_lt (by omega)]

theorem Reacts.configInv {ev : Option Event} {e e' : Engine} (h : Reacts ev e e') (he : ConfigInv e) :
    ConfigInv e' := by
  obtain ⟨hc, hh, hq⟩ | hcleared | ⟨t, f, q, hband, hhalf, hc, hh, -⟩ := h.config_cases
  · simpa only [ConfigInv, hc, hh, hq] using he
  · exact .inr hcleared
  · exact .inl ⟨hc, by rw [hh, halfPeriod_toNat hband]; omega⟩

theorem Reacts.configBounds {ev : Option Event} {e e' : Engine} (h : Reacts ev e e')
    (he : ConfigBounds Config.params e) : ConfigBounds Config.params e' := by
  obtain ⟨hc, hh, hq⟩ | ⟨hc, -, -⟩ | ⟨t, f, q, hband, hhalf, hc, hh, hq⟩ := h.config_cases
  · simpa only [ConfigBounds, hc, hh, hq] using he
  · simp [ConfigBounds, hc]
  · intro _
    rw [hh, hq, halfPeriod_toNat hband, quietPeriod_toNat]
    exact ⟨Nat.one_le_iff_ne_zero.2 hhalf, halfPeriod_le hband t, quietPeriod_le q t⟩

/-- Settles O38: a step keeps the registers, clears them, or writes a half period that is not 0. -/
theorem configurationInvariantKept : Obligations.ConfigurationInvariantKept :=
  ⟨.inr ⟨rfl, rfl, rfl⟩, fun _ _ hs h => (step_reacts h).configInv hs⟩

/-- Settles O39: a step keeps the registers, clears them, or writes quotients that are bounded by those of the extreme
operands. -/
theorem configurationRangesKept : Obligations.ConfigurationRangesKept :=
  fun _ _ hs h => (step_reacts h).configBounds hs

/-- Settles O48: of the reactions that remain none writes the three registers. -/
theorem onlyConfigWritesConfiguration : Obligations.OnlyConfigWritesConfiguration :=
  fun _ _ hreset hscan h => (step_reacts h).config_unchanged hreset hscan

/-! ### The resting positions (R19, R27) -/

/-- The count loaded for a half period is not 0 on a configured engine. -/
theorem ConfigInv.one_le_half {e : Engine} (he : ConfigInv e) (hc : e.configured = true) : 1 ≤ e.half.toNat := by
  obtain ⟨-, hh⟩ | ⟨hf, -⟩ := he
  · exact hh
  · simp [hc] at hf

theorem restInv_of_idle {e : Engine} (hs : e.state = .idle) (hc : e.cnt = 0) : RestInv e :=
  ⟨fun _ => hc, fun h => absurd hs h⟩

theorem restInv_of_wait {e : Engine} (hs : e.state ≠ .idle) (hc : 1 ≤ e.cnt.toNat) (hconf : e.configured = true) :
    RestInv e :=
  ⟨fun h => absurd h hs, fun _ => ⟨hc, hconf⟩⟩

/-- A half-period wait that begins on a configured engine has something to count. -/
theorem restInv_waitHalf (ph : Phase) {e : Engine} (hs : e.state ≠ .idle) (hh : 1 ≤ e.half.toNat)
    (hconf : e.configured = true) : RestInv (waitHalf ph e) := by
  refine restInv_of_wait hs ?_ hconf
  rw [waitHalf_cnt, BitVec.toNat_setWidth, Nat.mod_eq_of_lt (by omega)]
  exact hh

theorem Reacts.restInv {ev : Option Event} {e e' : Engine} (h : Reacts ev e e') (hconfig : ConfigInv e)
    (he : RestInv e) : RestInv e' := by
  obtain ⟨hidle, hwait⟩ := he
  have conf : e.state ≠ .idle → e.configured = true := fun hs => (hwait hs).2
  have half : e.configured = true → 1 ≤ e.half.toNat := hconfig.one_le_half
  cases h with
  | present | waits => exact ⟨hidle, hwait⟩
  | reset | abortsStart | abortsDriveHigh | abortsSample | abortsDriveLow | skipsQuiet | endsQuiet =>
    exact restInv_of_idle rfl rfl
  | configures _ _ hstate | rejectsConfig _ _ hstate | idles _ hstate =>
    exact restInv_of_idle hstate (hidle hstate)
  | startsScan _ _ hconf => exact restInv_waitHalf _ nofun (half hconf) hconf
  | samples hstate | nextCycle hstate =>
    have hbusy : e.state ≠ .idle := by simp [hstate]
    exact restInv_waitHalf _ hbusy (half (conf hbusy)) (conf hbusy)
  | counts _ hstate hcnt =>
    exact restInv_of_wait hstate (by simp only [countDown_toNat]; omega) (conf hstate)
  | entersQuiet _ hstate _ _ _ hquiet =>
    exact restInv_of_wait nofun (by simp only; bv_omega) (conf (by simp [hstate]))

/-- Settles O40: every wait loads `HALF` of a configured engine or a `QUIET` that is not 0, a count within a wait
leaves at least 1, and every way to `Idle` leaves `CNT` at 0. -/
theorem restingInvariantKept : Obligations.RestingInvariantKept :=
  ⟨restInv_of_idle rfl rfl, fun _ _ hconfig hs h => (step_reacts h).restInv hconfig hs⟩

/-! ### The clock line (R21, R25, R119) -/

theorem clockInv_of_idle {e : Engine} (hs : e.state = .idle) : ClockInv e := by simp [ClockInv, hs]

theorem Reacts.clockInv {ev : Option Event} {e e' : Engine} (h : Reacts ev e e') (he : ClockInv e) : ClockInv e' := by
  cases h with
  | present | waits | counts => exact he
  | reset | abortsStart | abortsDriveHigh | abortsSample | abortsDriveLow | skipsQuiet | endsQuiet =>
    exact clockInv_of_idle rfl
  | configures _ _ hstate | rejectsConfig _ _ hstate | idles _ hstate => exact clockInv_of_idle hstate
  | startsScan => simp [ClockInv]
  | samples hstate | nextCycle hstate => simp [ClockInv, hstate]
  | entersQuiet _ hstate hph _ hidx =>
    obtain ⟨-, hhigh, -⟩ := he
    simp [ClockInv, hidx, hph, hhigh hstate hph]

/-- Settles O42: each drive comes with the phase it belongs to, and the quiet wait follows the second half of channel
15. -/
theorem clockLevelOfPositionKept : Obligations.ClockLevelOfPositionKept :=
  fun _ _ hs h => (step_reacts h).clockInv hs

/-! ### The accumulator (R18, R100) -/

/-- Bit `j` of the frame after bit `i` is written. -/
theorem getLsbD_setFrameBit (f : Frame) {i : Nat} (hi : i < 16) (b : Bool) (j : Nat) :
    (setFrameBit f i b).getLsbD j = if j = i then b else f.getLsbD j := by
  have hone : (1#16 <<< i).getLsbD j = decide (j = i) := by
    simp [← BitVec.twoPow_eq, BitVec.getLsbD_twoPow, hi, eq_comm]
  have hbit : (if b then 1#16 <<< i else 0).getLsbD j = (b && decide (j = i)) := by
    cases b <;> simp [hone]
  rw [setFrameBit, BitVec.getLsbD_or, BitVec.getLsbD_and, BitVec.getLsbD_not, hone, hbit]
  by_cases hj : j = i
  · simp [hj]
  · simpa [hj] using BitVec.lt_of_getLsbD

/-- Settles O35: the mask of bit `i` selects that bit only. -/
theorem frameBitWriteIsLocal : Obligations.FrameBitWriteIsLocal :=
  fun f _ j b hi => getLsbD_setFrameBit f hi b j

theorem accInv_of_not_clocking {e : Engine} (hs : e.state ≠ .clocking) : AccInv e := fun h => absurd h hs

theorem Reacts.accInv {ev : Option Event} {e e' : Engine} (h : Reacts ev e e') (he : AccInv e) : AccInv e' := by
  cases h with
  | present | waits | counts => exact he
  | reset | abortsStart | abortsDriveHigh | abortsSample | abortsDriveLow | entersQuiet | skipsQuiet | endsQuiet =>
    exact accInv_of_not_clocking nofun
  | configures _ _ hstate | rejectsConfig _ _ hstate | idles _ hstate =>
    exact accInv_of_not_clocking (by simp [hstate])
  | startsScan => simp [AccInv]
  | samples hstate hph =>
    intro _ j hj16 hj
    have hj : e.idx.toNat < j := by simpa using hj
    have hzero : e.acc.getLsbD j = false := he hstate j hj16 (by simpa [hph] using hj.le)
    simp [getLsbD_setFrameBit _ e.idx.isLt, hj.ne', hzero]
  | nextCycle hstate hph _ hidx =>
    intro _ j hj16 hj
    have hnext : (e.idx + 1).toNat = e.idx.toNat + 1 := by bv_omega
    have hj : (e.idx + 1).toNat ≤ j := by simpa using hj
    exact he hstate j hj16 (by simp only [hph, reduceCtorEq, if_false]; omega)

/-- Settles O43: the scan starts with every bit 0, a sample writes the bit of its own channel only, and the next cycle
moves the bound past it. -/
theorem unsampledBitsStayZero : Obligations.UnsampledBitsStayZero :=
  fun _ _ hs h => (step_reacts h).accInv hs

/-! ### Reset (R13, R156) -/

/-- Settles O37: nothing is configured, nothing is awaited, nothing has been announced. -/
theorem resetMeetsEveryInvariant : Obligations.ResetMeetsEveryInvariant :=
  ⟨.inr ⟨rfl, rfl, rfl⟩, nofun, restInv_of_idle rfl rfl, ⟨nofun, nofun⟩, clockInv_of_idle rfl,
    accInv_of_not_clocking nofun, ⟨.nil, nofun⟩, rfl, rfl, rfl⟩

/-- Settles O13: every register by its definition; the unconfigured engine is `Idle`, so acceptance is the opcode
bit. -/
theorem resetValuesOfRegisters : Obligations.ResetValuesOfRegisters := by
  refine ⟨rfl, rfl, rfl, rfl, rfl, rfl, rfl, rfl, rfl, rfl, rfl, fun w => ?_⟩
  simp [cmdReady, busy, State.reset, Engine.resetWith]

end Sys2Proof.Machine

/-! ## Responses, positions and the partial frame -/

namespace Sys2Proof.Machine

/-! ### Responses (R20, R32, R66) -/

@[simp] theorem responses_driveClk (l : Level) (e : Engine) : responses (driveClk l e) = responses e := by
  cases l <;> simp [responses]
@[simp] theorem responses_storeSample (l : Level) (e : Engine) : responses (storeSample l e) = responses e := by
  simp [responses]
@[simp] theorem responses_waitHalf (ph : Phase) (e : Engine) : responses (waitHalf ph e) = responses e := rfl
@[simp] theorem responses_raise (k : ErrorKind) (e : Engine) :
    responses (raise k e) = responses e ++ [(raise k e).rsp] := by
  cases k <;> simp [responses]
@[simp] theorem responses_configSucceeds (h q : Nat) (e : Engine) :
    responses (configSucceeds h q e) = responses e ++ [(configSucceeds h q e).rsp] := by
  simp [responses]
@[simp] theorem responses_respondFrame (e : Engine) :
    responses (respondFrame e) = responses e ++ [(respondFrame e).rsp] := by
  simp [responses]

/-- The upper half of the response that carries a frame is 0. -/
theorem frameResponse_upper (f : Frame) : (responseWord .scan .ok f).extractLsb' 16 16 = 0 :=
  BitVec.extractLsb'_append_eq_left

theorem frameResponse_wf (f : Frame) : RspWord.wf (responseWord .scan .ok f) = true := by
  simp [RspWord.wf, frameResponse_upper]

theorem raise_rsp_wf (k : ErrorKind) (e : Engine) : RspWord.wf (raise k e).rsp = true := by
  cases k <;> simp [RspWord.wf]

theorem configSucceeds_rsp_wf (h q : Nat) (e : Engine) : RspWord.wf (configSucceeds h q e).rsp = true := by
  simp [RspWord.wf]

theorem frameResponse_ne_lineError (f : Frame) : responseWord .scan .ok f ≠ 0x00020000 :=
  fun h => absurd (h ▸ frameResponse_upper f) (by decide)

/-- The reaction announces nothing, and no response is due: a scan is in progress after it, or the engine was `Idle` and
accepted nothing. -/
structure Silent (ev : Option Event) (e e' : Engine) : Prop where
  responses_eq : responses e' = responses e
  rsp_eq : e'.rsp = e.rsp
  not_due : e'.state ≠ .idle ∨ (e.state = .idle ∧ ∀ w l, ev = some (.offer w l) → cmdReady e w = false)

/-- The reaction announces one response, which stands in `RSP`: it ends a scan, or completes the command it accepts. -/
structure Answers (ev : Option Event) (e e' : Engine) : Prop where
  responses_eq : responses e' = responses e ++ [e'.rsp]
  rsp_wf : RspWord.wf e'.rsp = true
  idle : e'.state = .idle
  due : e.state ≠ .idle ∨ ∃ w l, ev = some (.offer w l) ∧ cmdReady e w = true

theorem cmdReady_of_scan {e : Engine} {w : CmdWord} (hdecode : decode w = .scan) (hstate : e.state = .idle)
    (hconf : e.configured = true) : cmdReady e w = true := by
  rw [← accepts_decode, hdecode, accepts_scan]; exact ⟨hstate, hconf⟩

theorem cmdReady_of_config {e : Engine} {w : CmdWord} {t f q : Operand} (hdecode : decode w = .config t f q)
    (hstate : e.state = .idle) : cmdReady e w = true := by
  rw [← accepts_decode, hdecode, accepts_config]; exact hstate

/-- Every reaction but `Reset` announces nothing or one response, as is due. -/
theorem Reacts.silent_or_answers {ev : Option Event} {e e' : Engine} (h : Reacts ev e e')
    (hreset : ev ≠ some .reset) : Silent ev e e' ∨ Answers ev e e' := by
  cases h with
  | present => exact .inl ⟨rfl, rfl, (ne_or_eq e.state .idle).imp_right fun hs => ⟨hs, nofun⟩⟩
  | reset => exact absurd rfl hreset
  | waits l hready =>
    refine .inl ⟨rfl, rfl, (ne_or_eq e.state .idle).imp_right fun hs => ⟨hs, fun w l h => ?_⟩⟩
    cases h; exact hready
  | startsScan => exact .inl ⟨responses_driveClk .low _, rfl, .inl nofun⟩
  | abortsStart hdecode hstate hconf =>
    exact .inr ⟨responses_raise _ _, raise_rsp_wf _ _, rfl,
      .inr ⟨_, _, rfl, cmdReady_of_scan hdecode hstate hconf⟩⟩
  | configures l hdecode hstate =>
    exact .inr ⟨responses_configSucceeds _ _ _, configSucceeds_rsp_wf _ _ _, hstate,
      .inr ⟨_, _, rfl, cmdReady_of_config hdecode hstate⟩⟩
  | rejectsConfig l hdecode hstate =>
    exact .inr ⟨responses_raise _ _, raise_rsp_wf _ _, hstate,
      .inr ⟨_, _, rfl, cmdReady_of_config hdecode hstate⟩⟩
  | idles l hstate => exact .inl ⟨rfl, rfl, .inr ⟨hstate, nofun⟩⟩
  | counts l hstate => exact .inl ⟨rfl, rfl, .inl hstate⟩
  | samples hstate =>
    exact .inl ⟨(responses_storeSample _ _).trans (responses_driveClk .high _), rfl, .inl (by simp [hstate])⟩
  | abortsDriveHigh hstate | abortsDriveLow hstate =>
    exact .inr ⟨responses_raise _ _, raise_rsp_wf _ _, rfl, .inl (by simp [hstate])⟩
  | abortsSample hstate =>
    exact .inr ⟨by rw [responses_raise, responses_driveClk]; rfl, raise_rsp_wf _ _, rfl, .inl (by simp [hstate])⟩
  | nextCycle hstate => exact .inl ⟨responses_driveClk .low _, rfl, .inl (by simp [hstate])⟩
  | entersQuiet => exact .inl ⟨rfl, rfl, .inl nofun⟩
  | skipsQuiet l hstate | endsQuiet l hstate =>
    exact .inr ⟨responses_respondFrame _, frameResponse_wf _, rfl, .inl (by simp [hstate])⟩

theorem Reacts.responseInv {ev : Option Event} {e e' : Engine} (h : Reacts ev e e') (he : ResponseInv e)
    (hwf : RspWord.wf e.rsp = true) : ResponseInv e' ∧ RspWord.wf e'.rsp = true := by
  by_cases hev : ev = some .reset
  · subst hev; cases h; exact ⟨rfl, rfl⟩
  · obtain hsilent | hanswers := h.silent_or_answers hev
    · exact ⟨by rw [ResponseInv, hsilent.responses_eq, hsilent.rsp_eq]; exact he,
        by rw [hsilent.rsp_eq]; exact hwf⟩
    · exact ⟨by simp [ResponseInv, hanswers.responses_eq], hanswers.rsp_wf⟩

/-- Settles O46: a reaction keeps `RSP` and the responses, or appends the well-formed word it writes. -/
theorem responseRegisterKept : Obligations.ResponseRegisterKept :=
  fun _ _ hs hwf h => (step_reacts h).responseInv hs hwf

/-- Settles O50: a reaction is silent with no response due, or answers with one that is. -/
theorem responseOncePerCommand : Obligations.ResponseOncePerCommand := by
  intro s t hreset h
  obtain ⟨hresp, -, hdue⟩ | ⟨hresp, -, hidle, hdue⟩ := (step_reacts h).silent_or_answers hreset
  · refine ⟨by simp [hresp], ?_⟩
    obtain hbusy | ⟨hidle, hready⟩ := hdue
    · simp [rspValid, hresp, busy, hbusy]
    · have hnone : ¬ ∃ w l, s.pending.head? = some (.offer w l) ∧ cmdReady s.eng w = true := by
        rintro ⟨w, l, hev, hw⟩
        simp [hready w l hev] at hw
      simpa [rspValid, hresp, busy, hidle] using fun _ : t.eng.state = .idle => hnone
  · refine ⟨by simp [hresp], ?_⟩
    simpa [rspValid, hresp, busy, hidle] using hdue

/-! ### Positions (R26) -/

theorem positionOf_idle {e : Engine} (h : e.state = .idle) : positionOf e = .idle := by simp [positionOf, h]
theorem positionOf_clocking {e : Engine} (h : e.state = .clocking) : positionOf e = .clocking e.idx e.ph := by
  simp [positionOf, h]
theorem positionOf_quietWait {e : Engine} (h : e.state = .quietWait) : positionOf e = .quietWait := by
  simp [positionOf, h]

/-- An edge of R26, taken to `Idle` from `Clocking` only by a line fault or a quiet wait of 0 ticks. -/
def EdgeTaken (e e' : Engine) : Prop :=
  successor (positionOf e) (positionOf e') = true ∧
    ∀ i ph, positionOf e = .clocking i ph → positionOf e' = .idle →
      e'.rsp = 0x00020000 ∨ (i = 15 ∧ ph = .high ∧ e.quiet = 0)

/-- A line fault during a cycle takes the edge to `Idle`. -/
theorem edgeTaken_raise {e x : Engine} (hstate : e.state = .clocking) : EdgeTaken e (raise .lineError x) := by
  refine ⟨?_, fun _ _ _ _ => .inl rfl⟩
  rw [positionOf_clocking hstate, positionOf_idle rfl]
  cases e.ph <;> rfl

theorem Reacts.position {ev : Option Event} {e e' : Engine} (h : Reacts ev e e') (hreset : ev ≠ some .reset) :
    positionOf e' = positionOf e ∨ EdgeTaken e e' := by
  cases h with
  | present | waits | counts => exact .inl rfl
  | reset => exact absurd rfl hreset
  | startsScan _ hstate => exact .inr ⟨by simp [positionOf, hstate, successor], by simp [positionOf, hstate]⟩
  | abortsStart _ hstate => exact .inl (by simp [positionOf, hstate])
  | configures | rejectsConfig | idles => exact .inl rfl
  | samples hstate hph =>
    exact .inr ⟨by simp [positionOf, hstate, hph, successor], by simp [positionOf, hstate]⟩
  | abortsDriveHigh hstate | abortsSample hstate | abortsDriveLow hstate => exact .inr (edgeTaken_raise hstate)
  | nextCycle hstate hph _ hidx =>
    have hnext : (e.idx + 1).toNat = e.idx.toNat + 1 := by bv_omega
    exact .inr ⟨by simpa [positionOf, hstate, hph, successor] using hnext.symm, by simp [positionOf, hstate]⟩
  | entersQuiet l hstate hph _ hidx =>
    exact .inr ⟨by simp [positionOf, hstate, hph, hidx, successor], by simp [positionOf]⟩
  | skipsQuiet l hstate hph _ hidx hquiet =>
    exact .inr ⟨by simp [positionOf, hstate, hph, successor],
      by simp +contextual [positionOf, hstate, hph, hidx, hquiet]⟩
  | endsQuiet l hstate => exact .inr ⟨by simp [positionOf, hstate, successor], by simp [positionOf, hstate]⟩

/-- A word moves the position only as an accepted `SCAN`. -/
theorem Reacts.offer_position {w : CmdWord} {l : Lines} {e e' : Engine} (h : Reacts (some (.offer w l)) e e') :
    (decode w = .scan ∧ cmdReady e w = true ∧ positionOf e = .idle ∧
        positionOf e' = if l.errDrive then .idle else .clocking 0 .low) ∨
      ((decode w ≠ .scan ∨ cmdReady e w = false) ∧ positionOf e' = positionOf e) := by
  cases h with
  | waits _ hready => exact .inr ⟨.inr hready, rfl⟩
  | startsScan hdecode hstate hconf hdrive | abortsStart hdecode hstate hconf hdrive =>
    exact .inl ⟨hdecode, cmdReady_of_scan hdecode hstate hconf, positionOf_idle hstate,
      by simp [positionOf, hdrive]⟩
  | configures _ hdecode | rejectsConfig _ hdecode => exact .inr ⟨.inl (by simp [hdecode]), rfl⟩

/-- A tick moves the position only out of a wait that is over. -/
theorem Reacts.tick_position_within {l : Lines} {e e' : Engine} (h : Reacts (some (.tick l)) e e')
    (hwithin : e.state = .idle ∨ 2 ≤ e.cnt.toNat) : positionOf e' = positionOf e := by
  cases h with
  | idles | counts => rfl
  | samples hstate _ hcnt | abortsDriveHigh hstate _ hcnt | abortsSample hstate _ hcnt | nextCycle hstate _ hcnt
  | abortsDriveLow hstate _ hcnt | entersQuiet _ hstate _ hcnt | skipsQuiet _ hstate _ hcnt
  | endsQuiet _ hstate hcnt => simp [hstate] at hwithin; omega

/-- Where a tick leads from a wait that is over. -/
theorem Reacts.tick_position_over {l : Lines} {e e' : Engine} (h : Reacts (some (.tick l)) e e')
    (hover : e.cnt.toNat ≤ 1) :
    (∀ i, positionOf e = .clocking i .low →
        positionOf e' = if l.errDrive || l.errSample then .idle else .clocking i .high) ∧
      (∀ i, positionOf e = .clocking i .high → i.toNat < 15 →
        positionOf e' = if l.errDrive then .idle else .clocking (i + 1) .low) ∧
      (positionOf e = .clocking 15 .high → positionOf e' = if e.quiet = 0 then .idle else .quietWait) ∧
      (positionOf e = .quietWait → positionOf e' = .idle) := by
  cases h with
  | idles _ hstate => simp [positionOf, hstate]
  | counts _ _ hcnt => omega
  | samples hstate hph _ hdrive hread => simp +contextual [positionOf, hstate, hph, hdrive, hread]
  | abortsDriveHigh hstate hph _ hdrive => simp [positionOf, hstate, hph, hdrive]
  | abortsSample hstate hph _ _ hread => simp [positionOf, hstate, hph, hread]
  | nextCycle hstate hph _ hidx hdrive =>
    have hne : ¬ e.idx = 15#4 := fun h => by simp [h] at hidx
    simp +contextual [positionOf, hstate, hph, hdrive, hne]
  | abortsDriveLow hstate hph _ hidx hdrive =>
    have hne : ¬ e.idx = 15#4 := fun h => by simp [h] at hidx
    simp [positionOf, hstate, hph, hdrive, hne]
  | entersQuiet _ hstate hph _ hidx hquiet =>
    simpa [positionOf, hstate, hph, hidx] using hquiet
  | skipsQuiet _ hstate hph _ hidx hquiet =>
    simp +contextual [positionOf, hstate, hph, hidx, hquiet]
  | endsQuiet _ hstate => simp [positionOf, hstate]

/-- Settles O47: the edges, and each event's own moves, are read off the reactions. -/
theorem sequencerFollowsSuccessors : Obligations.SequencerFollowsSuccessors := by
  refine ⟨fun s t hreset h => (step_reacts h).position hreset, fun s t hev h => ?_, fun s t hev h => ?_,
    fun s t w l hev h => ?_, fun s t l hev h => ?_⟩
  all_goals have hr := step_reacts h
  · rw [hev] at hr
    generalize t.eng = e' at hr
    cases hr; rfl
  · rw [hev] at hr
    generalize t.eng = e' at hr
    cases hr; rfl
  · exact (hev ▸ hr).offer_position
  · exact ⟨(hev ▸ hr).tick_position_within, (hev ▸ hr).tick_position_over⟩

end Sys2Proof.Machine

/-! ## The partial frame is invisible (R18, R46)

Each reaction to an engine with another `ACC` is the reaction to the engine itself with another `ACC`, except the
response that ends a scan. -/

namespace Sys2Proof.Machine

/-! ### The reaction to a tick, case by case -/

theorem onTick_idle {p : Params} {l : Lines} {e : Engine} (hs : e.state = .idle) :
    onTick p l e = { e with now := e.now + 1 } := if_pos hs

theorem onTick_over {p : Params} {l : Lines} {e : Engine} (hs : e.state ≠ .idle) (hc : countDown e.cnt = 0) :
    onTick p l e = waitDone p l { e with now := e.now + 1, cnt := 0 } := (if_neg hs).trans (if_pos hc)

theorem onTick_within {p : Params} {l : Lines} {e : Engine} (hs : e.state ≠ .idle) (hc : countDown e.cnt ≠ 0) :
    onTick p l e = { e with now := e.now + 1, cnt := countDown e.cnt } := (if_neg hs).trans (if_neg hc)

/-! ### Another content of `ACC` -/

/-- The engine with another content of `ACC`. -/
def Engine.withAcc (a : Frame) (e : Engine) : Engine := { e with acc := a }

@[simp] theorem withAcc_state (a : Frame) (e : Engine) : (e.withAcc a).state = e.state := rfl

theorem raise_withAcc (k : ErrorKind) (a : Frame) (e : Engine) : raise k (e.withAcc a) = (raise k e).withAcc a := by
  cases k <;> rfl

theorem driveLow_withAcc (p : Params) (l : Lines) (a : Frame) (e : Engine) :
    driveLow p l (e.withAcc a) = (driveLow p l e).withAcc a := by
  unfold driveLow
  split
  · exact raise_withAcc _ a e
  · rfl

/-- A sample writes the same bit into either frame. -/
theorem driveHighAndSample_withAcc (p : Params) (l : Lines) (a : Frame) (e : Engine) :
    ∃ b, driveHighAndSample p l (e.withAcc a) = (driveHighAndSample p l e).withAcc b := by
  unfold driveHighAndSample
  split
  · exact ⟨a, raise_withAcc _ a e⟩
  · split
    · exact ⟨a, raise_withAcc _ a (driveClk .high e)⟩
    · exact ⟨setFrameBit a e.idx.toNat (channelActive l.data), rfl⟩

theorem configure_withAcc (p : Params) (t f q : Operand) (a : Frame) (e : Engine) :
    configure p t f q (e.withAcc a) = (configure p t f q e).withAcc a := by
  unfold configure
  split
  · split
    · exact raise_withAcc _ a e
    · rfl
  · exact raise_withAcc _ a e

/-- The reaction from `e` to `e'` does not complete a scan: the engine was `Idle`, or the scan goes on or is aborted. -/
def KeepsFrameHidden (e e' : Engine) : Prop := e.state = .idle ∨ e'.state ≠ .idle ∨ e'.rsp = 0x00020000

/-- A response with the frame completes the scan. -/
theorem not_keepsFrameHidden_respondFrame {e : Engine} (hs : e.state ≠ .idle) (x : Engine) :
    ¬ KeepsFrameHidden e (respondFrame x) := by
  rintro (hidle | hbusy | hrsp)
  · exact hs hidle
  · exact hbusy rfl
  · exact frameResponse_ne_lineError _ hrsp

theorem enterQuiet_withAcc {e e₀ : Engine} (hs : e₀.state ≠ .idle) (h : KeepsFrameHidden e₀ (enterQuiet e))
    (a : Frame) : enterQuiet (e.withAcc a) = (enterQuiet e).withAcc a := by
  unfold enterQuiet at h ⊢
  split at h
  · exact absurd h (not_keepsFrameHidden_respondFrame hs _)
  · next hq => rw [if_neg hq, if_neg (show ¬ (e.withAcc a).quiet = 0 from hq)]; rfl

theorem nextChannel_withAcc {p : Params} {l : Lines} {e e₀ : Engine} (hs : e₀.state ≠ .idle)
    (h : KeepsFrameHidden e₀ (nextChannel p l e)) (a : Frame) :
    nextChannel p l (e.withAcc a) = (nextChannel p l e).withAcc a := by
  unfold nextChannel at h ⊢
  split at h
  · next hi =>
    rw [if_pos hi, if_pos (show (e.withAcc a).idx < 15 from hi)]
    exact driveLow_withAcc p l a { e with idx := e.idx + 1 }
  · next hi =>
    rw [if_neg hi, if_neg (show ¬ (e.withAcc a).idx < 15 from hi)]
    exact enterQuiet_withAcc hs h a

theorem waitDone_withAcc {p : Params} {l : Lines} {e e₀ : Engine} (hs : e₀.state ≠ .idle)
    (h : KeepsFrameHidden e₀ (waitDone p l e)) (a : Frame) :
    ∃ b, waitDone p l (e.withAcc a) = (waitDone p l e).withAcc b := by
  unfold waitDone at h ⊢
  simp only [withAcc_state, show (e.withAcc a).ph = e.ph from rfl]
  split at h
  · exact driveHighAndSample_withAcc p l a e
  · exact ⟨a, nextChannel_withAcc hs h a⟩
  · exact absurd h (not_keepsFrameHidden_respondFrame hs _)
  · exact ⟨a, rfl⟩

theorem onTick_withAcc {p : Params} {l : Lines} {e : Engine} (h : KeepsFrameHidden e (onTick p l e)) (a : Frame) :
    ∃ b, onTick p l (e.withAcc a) = (onTick p l e).withAcc b := by
  by_cases hs : e.state = .idle
  · rw [onTick_idle hs, onTick_idle (e := e.withAcc a) hs]
    exact ⟨a, rfl⟩
  · by_cases hc : countDown e.cnt = 0
    · rw [onTick_over hs hc] at h ⊢
      rw [onTick_over (e := e.withAcc a) hs hc]
      exact waitDone_withAcc hs h a
    · rw [onTick_within hs hc, onTick_within (e := e.withAcc a) hs hc]
      exact ⟨a, rfl⟩

/-- The state with another content of `ACC`. -/
def State.withAcc (a : Frame) (s : State) : State := { s with eng := s.eng.withAcc a }

theorem presentInstant_withAcc (a : Frame) (s : State) :
    presentInstant (s.withAcc a) = (presentInstant s).withAcc a := by
  unfold presentInstant
  rw [show (s.withAcc a).inputs = s.inputs from rfl, show tickDue (s.withAcc a) = tickDue s from rfl]
  split
  · rfl
  · split <;> rfl

theorem takeTick_withAcc {l : Lines} {s : State} (h : KeepsFrameHidden s.eng (takeTick l s).eng) (a : Frame) :
    ∃ b, takeTick l (s.withAcc a) = (takeTick l s).withAcc b := by
  obtain ⟨b, hb⟩ := onTick_withAcc h a
  exact ⟨b, by simp only [takeTick, State.withAcc, hb]⟩

theorem exec_withAcc {i : Instr} {s t : State} (h : exec i s = .next t) (a : Frame) :
    ∃ b, exec i (s.withAcc a) = .next (t.withAcc b) := by
  cases i with
  | scan =>
    simp only [exec, execScan, show accepts (s.withAcc a).eng .scan = accepts s.eng .scan from rfl] at h ⊢
    split at h
    · next ha =>
      cases h
      exact ⟨(startScan Config.params s.line s.eng).acc, by rw [if_pos ha]; rfl⟩
    · next ha => cases h; exact ⟨a, if_neg ha⟩
  | config t f q =>
    simp only [exec, execConfig,
      show accepts (s.withAcc a).eng (.config t f q) = accepts s.eng (.config t f q) from rfl] at h ⊢
    split at h
    · next ha =>
      cases h
      have hc : configure Config.params t f q (s.withAcc a).eng = _ := configure_withAcc Config.params t f q a s.eng
      exact ⟨a, by rw [if_pos ha, hc]; rfl⟩
    · next ha => cases h; exact ⟨a, if_neg ha⟩

/-- A step on an engine with another `ACC`, unless it completes a scan. -/
theorem step_withAcc {s t : State} (h : step s = .next t)
    (hhidden : KeepsFrameHidden s.eng t.eng ∨ s.pending.head? = some .reset) (a : Frame) :
    ∃ b, step (s.withAcc a) = .next (t.withAcc b) := by
  unfold step at h ⊢
  rw [show (s.withAcc a).pending = s.pending from rfl]
  split at h
  · cases h
    exact ⟨a, congrArg _ (presentInstant_withAcc a s)⟩
  · cases h
    exact ⟨0, rfl⟩
  · next l es hp =>
    cases h
    obtain ⟨b, hb⟩ := takeTick_withAcc (s := { s with pending := es }) (hhidden.resolve_right (by simp [hp])) a
    exact ⟨b, congrArg _ hb⟩
  · exact exec_withAcc h a

/-- Settles O49: the second step is the first with another `ACC`, since only the response that completes a scan reads
it. -/
theorem partialFrameIsInvisible : Obligations.PartialFrameIsInvisible := by
  intro s t u a ht hu hhidden
  have hkeeps : KeepsFrameHidden s.eng t.eng ∨ s.pending.head? = some .reset := by
    simpa only [KeepsFrameHidden, or_assoc] using hhidden
  obtain ⟨b, hb⟩ := step_withAcc ht hkeeps a
  cases hu.symm.trans hb
  exact ⟨b, rfl⟩

end Sys2Proof.Machine

/-! ## The trace only grows, and a printed frame loses nothing (R43, R49, R111) -/

namespace Sys2Proof.Machine

/-! ### The stamps of the trace (R49, R111) -/

/-- Time does not go back from `e` to `e'`, and the trace grows at its end by the events `evs`, stamped with the new
tick count. -/
def Records (evs : List TraceEvent) (e e' : Engine) : Prop :=
  e.now ≤ e'.now ∧ e'.trace = e.trace ++ evs.map (Stamped.mk e'.now)

theorem Records.stampsOrdered {evs : List TraceEvent} {e e' : Engine} (h : Records evs e e')
    (he : StampsOrdered e) : StampsOrdered e' := by
  obtain ⟨hnow, htrace⟩ := h
  obtain ⟨hsorted, hbound⟩ := he
  have hold : ∀ x ∈ e.trace, x.tick ≤ e'.now := fun x hx => (hbound x hx).trans hnow
  have hnew : ∀ y ∈ evs.map (Stamped.mk e'.now), y.tick = e'.now := by simp
  rw [StampsOrdered, htrace, List.pairwise_append]
  refine ⟨⟨hsorted, ?_, fun x hx y hy => (hold x hx).trans_eq (hnew y hy).symm⟩, fun x hx => ?_⟩
  · exact List.pairwise_of_forall_mem_list fun x hx y hy => ((hnew x hx).trans (hnew y hy).symm).le
  · exact (List.mem_append.1 hx).elim (hold x) fun hx => (hnew x hx).le

/-- Every reaction but `Reset` only adds to the trace: nothing, its line accesses, or its response after them. -/
theorem Reacts.records {ev : Option Event} {e e' : Engine} (h : Reacts ev e e') (hreset : ev ≠ some .reset) :
    ∃ evs, Records evs e e' := by
  have hticked : e.now ≤ e.now + 1 := Nat.le_succ _
  cases h with
  | reset => exact absurd rfl hreset
  | present | waits => exact ⟨[], le_rfl, (List.append_nil _).symm⟩
  | idles | counts | entersQuiet => exact ⟨[], hticked, (List.append_nil _).symm⟩
  | startsScan => exact ⟨[.clkLow], le_rfl, rfl⟩
  | abortsStart => exact ⟨[.rsp 0x00020000], le_rfl, rfl⟩
  | configures => exact ⟨[.rsp 0x00040000], le_rfl, rfl⟩
  | rejectsConfig => exact ⟨[.rsp 0x00050000], le_rfl, rfl⟩
  | @samples _ l => exact ⟨[.clkHigh, .sample l.data], hticked, List.append_assoc ..⟩
  | abortsDriveHigh | abortsDriveLow => exact ⟨[.rsp 0x00020000], hticked, rfl⟩
  | abortsSample => exact ⟨[.clkHigh, .rsp 0x00020000], hticked, List.append_assoc ..⟩
  | nextCycle => exact ⟨[.clkLow], hticked, rfl⟩
  | skipsQuiet | endsQuiet => exact ⟨[.rsp (responseWord .scan .ok e.acc)], hticked, rfl⟩

theorem Reacts.stampsOrdered {ev : Option Event} {e e' : Engine} (h : Reacts ev e e') (he : StampsOrdered e) :
    StampsOrdered e' := by
  by_cases hev : ev = some .reset
  · subst hev; cases h; exact ⟨.nil, nofun⟩
  · obtain ⟨_, hrecords⟩ := h.records hev
    exact hrecords.stampsOrdered he

/-- Settles O44: a reaction adds only events stamped with its own tick count, which no earlier stamp exceeds, and
`Reset` empties the trace. -/
theorem traceStampsStayOrdered : Obligations.TraceStampsStayOrdered :=
  fun _ _ hs h => (step_reacts h).stampsOrdered hs

/-! ### Printed frames (R43) -/

@[simp] theorem length_printFrame (f : Frame) : (printFrame f).length = 16 := by simp [printFrame]

/-- Bit `i` stands at place `15 - i` from the left. -/
theorem getElem?_printFrame (f : Frame) {i : Nat} (hi : i < 16) :
    (printFrame f)[15 - i]? = some (if f.getLsbD i then '1' else '0') := by
  rw [printFrame, List.getElem?_map, List.getElem?_range (by omega), Option.map_some, Nat.sub_sub_self (by omega)]

/-- The characters of two different bits differ. -/
theorem bit_eq_of_digit_eq : ∀ b c : Bool, (if b then '1' else '0') = (if c then '1' else '0') → b = c := by decide

theorem printFrame_injective : Function.Injective printFrame := by
  intro f g h
  refine BitVec.eq_of_getLsbD_eq fun i hi => bit_eq_of_digit_eq _ _ (Option.some.inj ?_)
  rw [← getElem?_printFrame f hi, ← getElem?_printFrame g hi, h]

/-- Settles O6: each character is read off the list that prints it, and the characters determine the bits. -/
theorem printedFrameShowsEveryBit : Obligations.PrintedFrameShowsEveryBit :=
  ⟨length_printFrame, fun f _ hi => getElem?_printFrame f hi, by decide, fun _ _ h => printFrame_injective h⟩

end Sys2Proof.Machine

/-! ## Command words (R56 to R61, R68, R71)

The decoder and the encoder by their fields; two rewriting facts carry the rest: an encoded `CONFIG` read field by field,
and a word written as the row of its fields. -/

namespace Sys2Proof.Machine

/-! ### The decoder and the encoder by fields -/

theorem decode_of_config_bit {w : CmdWord} (h : cmdOpBit w = true) :
    decode w = .config (cmdTickRate w) (cmdTargetFreq w) (cmdQuietUs w) := if_pos h

theorem decode_of_scan_bit {w : CmdWord} (h : cmdOpBit w = false) : decode w = .scan := if_neg (by simp [h])

@[simp] theorem cmdOpBit_encode_config (t f q : Operand) : cmdOpBit (encode (.config t f q)) = true :=
  (Laws.EncodeCanonical.config t f q).2.2 rfl

@[simp] theorem cmdTickRate_encode_config (t f q : Operand) : cmdTickRate (encode (.config t f q)) = t :=
  BitVec.extractLsb'_append_eq_right

@[simp] theorem cmdTargetFreq_encode_config (t f q : Operand) : cmdTargetFreq (encode (.config t f q)) = f :=
  (BitVec.extractLsb'_append_eq_of_le (by decide)).trans BitVec.extractLsb'_append_eq_right

@[simp] theorem cmdQuietUs_encode_config (t f q : Operand) : cmdQuietUs (encode (.config t f q)) = q :=
  (BitVec.extractLsb'_append_eq_of_le (by decide)).trans <|
    (BitVec.extractLsb'_append_eq_of_le (by decide)).trans BitVec.extractLsb'_append_eq_right

/-- Decoding undoes encoding (R61). -/
theorem decode_encode (i : Instr) : decode (encode i) = i := by
  cases i with
  | scan => exact decode_of_scan_bit (by decide)
  | config t f q => rw [decode_of_config_bit (by simp)]; simp

/-! ### Words with the ignored bits 0 -/

/-- Whatever is encoded has its ignored bits 0. -/
theorem canonical_encode (i : Instr) : CmdWord.canonical (encode i) = true := by
  cases i with
  | scan => exact Laws.EncodeCanonical.scan.1
  | config t f q => exact (Laws.EncodeCanonical.config t f q).1

theorem canonical_iff (w : CmdWord) :
    CmdWord.canonical w = true ↔
      w.extractLsb' 97 31 = 0 ∧ (w.getLsbD 96 = false → w.extractLsb' 0 96 = 0) := by
  simp [CmdWord.canonical, or_iff_not_imp_left]

/-- A word is its reserved bits, its opcode bit and its payload in a row (R56). -/
theorem append_cmdPayload (w : CmdWord) :
    w.extractLsb' 97 31 ++ w.extractLsb' 96 1 ++ w.extractLsb' 0 96 = w := by
  rw [BitVec.extractLsb'_append_extractLsb'_eq_extractLsb' (by rfl),
    BitVec.extractLsb'_append_extractLsb'_eq_extractLsb' (by rfl)]
  exact BitVec.extractLsb'_eq_self

/-- A word is its reserved bits, its opcode bit and its three operands in a row (R58). -/
theorem append_cmdOperands (w : CmdWord) :
    w.extractLsb' 97 31 ++ w.extractLsb' 96 1 ++ cmdQuietUs w ++ cmdTargetFreq w ++ cmdTickRate w = w := by
  unfold cmdQuietUs cmdTargetFreq cmdTickRate
  iterate 4 rw [BitVec.extractLsb'_append_extractLsb'_eq_extractLsb' (by rfl)]
  exact BitVec.extractLsb'_eq_self

theorem extractLsb'_cmdOpBit (w : CmdWord) : w.extractLsb' 96 1 = BitVec.ofBool (cmdOpBit w) := by
  rw [cmdOpBit, BitVec.getLsbD_eq_extractLsb']
  obtain h | h := BitVec.eq_zero_or_eq_one (w.extractLsb' 96 1) <;> rw [h] <;> rfl

/-- Encoding undoes decoding on the words with the ignored bits 0, and on no others (R61). -/
theorem encode_decode_iff (w : CmdWord) : encode (decode w) = w ↔ CmdWord.canonical w = true := by
  refine ⟨fun h => h ▸ canonical_encode (decode w), fun h => ?_⟩
  obtain ⟨hreserved, hpayload⟩ := (canonical_iff w).1 h
  cases hop : cmdOpBit w with
  | false =>
    have hw := append_cmdPayload w
    rw [hreserved, extractLsb'_cmdOpBit, hop, hpayload hop] at hw
    rw [decode_of_scan_bit hop, ← hw]
    decide
  | true =>
    have hw := append_cmdOperands w
    rw [hreserved, extractLsb'_cmdOpBit, hop] at hw
    rw [decode_of_config_bit hop]
    exact hw

/-- Settles O1: each field read back is the one written, and a canonical word is the row of its fields. -/
theorem decodeAndEncodeAgree : Obligations.DecodeAndEncodeAgree :=
  ⟨fun _ => decode_of_config_bit, fun _ => decode_of_scan_bit, fun _ _ _ => rfl, rfl, decode_encode,
    fun w => (encode_decode_iff w).trans (canonical_iff w)⟩

/-! ### Ignored bits (R59, R60) -/

/-- The decoder reads bits 96:0 only. -/
theorem decode_eq_of_low_bits_eq {w w' : CmdWord} (h : w.extractLsb' 0 97 = w'.extractLsb' 0 97) :
    decode w = decode w' := by
  have hfield (start len : Nat) (hin : start + len ≤ 97) : w.extractLsb' start len = w'.extractLsb' start len := by
    rw [← BitVec.extractLsb'_extractLsb'_of_le hin, h, BitVec.extractLsb'_extractLsb'_of_le hin]
  have hop : cmdOpBit w = cmdOpBit w' := by
    simp only [cmdOpBit, BitVec.getLsbD_eq_extractLsb', hfield 96 1 (by decide)]
  simp only [decode, hop, cmdTickRate, cmdTargetFreq, cmdQuietUs, hfield 0 32 (by decide),
    hfield 32 32 (by decide), hfield 64 32 (by decide)]

/-- Settles O2: every field the decoder reads lies in bits 96:0, and bit 96 alone makes a `SCAN`. -/
theorem ignoredBitsDoNotMatter : Obligations.IgnoredBitsDoNotMatter :=
  ⟨fun _ _ => decode_eq_of_low_bits_eq, fun _ => decode_of_scan_bit,
    fun _ _ h h' => (decode_of_scan_bit h).trans (decode_of_scan_bit h').symm⟩

/-! ### The opcode map (R71) -/

/-- Under the mask of the map a word is its opcode bit. -/
theorem and_configRow_mask (w : CmdWord) : w &&& configRow.mask = if cmdOpBit w then configRow.pattern else 0 :=
  BitVec.and_twoPow w 96

theorem configRow_selects (w : CmdWord) : configRow.selects w = cmdOpBit w := by
  rw [OpcodeRow.selects, and_configRow_mask]
  cases cmdOpBit w <;> decide

theorem scanRow_selects (w : CmdWord) : scanRow.selects w = !cmdOpBit w := by
  rw [OpcodeRow.selects, show scanRow.mask = configRow.mask from rfl, and_configRow_mask]
  cases cmdOpBit w <;> decide

/-- Settles O3: the opcode bit tells the row and the instruction alike. -/
theorem opcodeMapPartitionsWords : Obligations.OpcodeMapPartitionsWords := by
  intro w
  rw [scanRow_selects, configRow_selects]
  cases hop : cmdOpBit w with
  | false => exact .inl ⟨rfl, rfl, decode_of_scan_bit hop⟩
  | true => exact .inr ⟨rfl, rfl, _, _, _, decode_of_config_bit hop⟩

/-! ### The assembler (R68) -/

theorem assemble_of_wf {c : AsmCommand} (h : c.wf = true) : assemble c = some (encode (asmInstr c)) := if_pos h

theorem assemble_of_not_wf {c : AsmCommand} (h : ¬ c.wf = true) : assemble c = none := if_neg h

theorem wf_config_iff (t f q : Nat) :
    (AsmCommand.config t f q).wf = true ↔ t < 2 ^ 32 ∧ f < 2 ^ 32 ∧ q < 2 ^ 32 := by
  simp [AsmCommand.wf, and_assoc]

/-- Settles O5: operands that fit are read back from the fields of the encoded word; one that does not fit makes the
command ill-formed. -/
theorem assemblerPlacesOperands : Obligations.AssemblerPlacesOperands := by
  refine ⟨rfl, fun t f q ht hf hq => ?_, fun t f q hlarge => ?_⟩
  · refine ⟨_, assemble_of_wf ((wf_config_iff t f q).2 ⟨ht, hf, hq⟩), ?_⟩
    simpa [asmInstr, canonical_encode] using And.intro ht (And.intro hf hq)
  · refine assemble_of_not_wf fun hwf => ?_
    obtain ⟨ht, hf, hq⟩ := (wf_config_iff t f q).1 hwf
    omega

end Sys2Proof.Machine

/-! ## Response words, acceptance and waiting (R31, R62, R64 to R67, R139) -/

namespace Sys2Proof.Machine

/-! ### The fields of a response word (R64) -/

theorem responseWord_zeros (op : Op) (st : Status) (f : Frame) : (responseWord op st f).extractLsb' 19 13 = 0 :=
  (BitVec.extractLsb'_append_eq_of_le (by decide)).trans <|
    (BitVec.extractLsb'_append_eq_of_le (by decide)).trans BitVec.extractLsb'_append_eq_left

theorem responseWord_op (op : Op) (st : Status) (f : Frame) : (responseWord op st f).extractLsb' 18 1 = opBit op :=
  (BitVec.extractLsb'_append_eq_of_le (by decide)).trans <|
    (BitVec.extractLsb'_append_eq_of_le (by decide)).trans BitVec.extractLsb'_append_eq_right

theorem responseWord_status (op : Op) (st : Status) (f : Frame) :
    (responseWord op st f).extractLsb' 16 2 = statusCode st :=
  (BitVec.extractLsb'_append_eq_of_le (by decide)).trans BitVec.extractLsb'_append_eq_right

theorem responseWord_frame (op : Op) (st : Status) (f : Frame) : (responseWord op st f).extractLsb' 0 16 = f :=
  BitVec.extractLsb'_append_eq_right

/-- The response of a completed scan is its frame (R66). -/
theorem frameResponse_eq_setWidth (f : Frame) : responseWord .scan .ok f = f.setWidth 32 := by
  rw [BitVec.setWidth_eq_append (by decide)]
  rfl

/-- Settles O7: each field is the part that was put there; the frame response has zeros before the frame. -/
theorem responseWordsAreFourKinds : Obligations.ResponseWordsAreFourKinds :=
  ⟨fun op st f => ⟨responseWord_zeros op st f, responseWord_op op st f, responseWord_status op st f,
    responseWord_frame op st f⟩, frameResponse_eq_setWidth, by decide, by decide, by decide⟩

/-! ### Acceptance (R31, R62) -/

theorem cmdReady_iff (e : Engine) (w : CmdWord) :
    cmdReady e w = true ↔ e.state = .idle ∧ (w.getLsbD 96 = true ∨ e.configured = true) := by
  simp [cmdReady, busy, cmdOpBit]

/-- Settles O14: `cmd_ready` by its definition, which the meanings share. -/
theorem acceptanceOfCommands : Obligations.AcceptanceOfCommands :=
  fun e w => ⟨cmdReady_iff e w, accepts_decode e w⟩

/-- Nothing is accepted during a scan. -/
theorem accepts_of_busy {e : Engine} (i : Instr) (h : e.state ≠ .idle) : accepts e i = false := by
  simp [accepts, busy, h]

/-- No `SCAN` is accepted by an unconfigured engine. -/
theorem accepts_scan_of_unconfigured {e : Engine} (h : e.configured = false) : accepts e .scan = false := by
  simp [accepts, h]

/-- An instruction that is not accepted has no effect. -/
theorem exec_of_not_accepts {i : Instr} {s : State} (h : accepts s.eng i = false) : exec i s = .next s := by
  have hnot : ¬ accepts s.eng i = true := by simp [h]
  cases i with
  | scan => exact if_neg hnot
  | config => exact if_neg hnot

theorem step_of_offer {s : State} {w : CmdWord} {l : Lines} {es : List Event} (h : s.pending = .offer w l :: es) :
    step s = exec (decode w) { s with pending := es, line := l, port := some w } := by
  rw [step, h]

/-- Settles O15: in each case the instruction is not accepted, and then it has no effect. -/
theorem unacceptedCommandHasNoEffect : Obligations.UnacceptedCommandHasNoEffect := by
  refine ⟨fun s i hbusy => exec_of_not_accepts (accepts_of_busy i hbusy),
    fun s hconf => exec_of_not_accepts (accepts_scan_of_unconfigured hconf), fun s w l es hpending hready => ?_⟩
  rw [step_of_offer hpending]
  exact exec_of_not_accepts ((accepts_decode s.eng w).trans hready)

/-! ### Every step answers a state -/

theorem exists_exec_eq_next (i : Instr) (s : State) : ∃ t, exec i s = .next t := by
  cases ha : accepts s.eng i with
  | false => exact ⟨s, exec_of_not_accepts ha⟩
  | true =>
    cases i with
    | scan => exact ⟨_, if_pos ha⟩
    | config => exact ⟨_, if_pos ha⟩

theorem exists_step_eq_next (s : State) : ∃ t, step s = .next t := by
  unfold step
  split
  · exact ⟨_, rfl⟩
  · exact ⟨_, rfl⟩
  · exact ⟨_, rfl⟩
  · exact exists_exec_eq_next _ _

/-! ### Waiting for a configuration (R62, R139) -/

theorem noReset_iff (es : List Event) : noReset es = true ↔ Event.reset ∉ es := by
  induction es with
  | nil => simp [noReset]
  | cons ev es ih => cases ev <;> simp [noReset, ih]

theorem tickCount_append (es es' : List Event) : tickCount (es ++ es') = tickCount es + tickCount es' := by
  induction es with
  | nil => simp [tickCount]
  | cons ev es ih => cases ev <;> simp [tickCount, ih, Nat.add_right_comm]

/-- In `Idle` without a configuration, of the reactions to a tick and to an offered `SCAN` only the tick's does anything:
time passes. -/
theorem Reacts.eq_of_unconfigured {ev : Option Event} {e e' : Engine} (h : Reacts ev e e') (hidle : e.state = .idle)
    (hunconf : e.configured = false) (hreset : ev ≠ some .reset)
    (hscan : ∀ w l, ev = some (.offer w l) → decode w = .scan) :
    e' = { e with now := e.now + tickCount ev.toList } := by
  cases h with
  | present | waits | idles => rfl
  | reset => exact absurd rfl hreset
  | startsScan _ _ hconf | abortsStart _ _ hconf => simp [hunconf] at hconf
  | configures l hdecode | rejectsConfig l hdecode => simp [hdecode] at hscan
  | counts l hbusy => exact absurd hidle hbusy
  | samples hstate | abortsDriveHigh hstate | abortsSample hstate | nextCycle hstate | abortsDriveLow hstate
  | entersQuiet _ hstate | skipsQuiet _ hstate | endsQuiet _ hstate => simp [hidle] at hstate

/-- Settles O57, by induction on the steps: each leaves the engine in `Idle` and unconfigured. -/
theorem unconfiguredScanWaits : Obligations.UnconfiguredScanWaits := by
  intro k
  induction k with
  | zero => exact fun s _ _ _ _ => ⟨s, rfl, rfl⟩
  | succ k ih =>
    intro s hidle hunconf hreset hscan
    obtain ⟨u, hu⟩ := exists_step_eq_next s
    simp only [happened_succ k hu, noReset_iff, List.mem_append, Option.mem_toList, not_or] at hreset hscan
    obtain ⟨hfirst, hrest⟩ := hreset
    have heng := (step_reacts hu).eq_of_unconfigured hidle hunconf hfirst fun w l h => hscan w l (.inl h)
    obtain ⟨t, ht, hteng⟩ := ih u (by rw [heng]; exact hidle) (by rw [heng]; exact hunconf)
      ((noReset_iff _).2 hrest) fun w l h => hscan w l (.inr h)
    refine ⟨t, (runSteps_succ k hu).trans ht, ?_⟩
    rw [hteng, heng, happened_succ k hu, tickCount_append, Nat.add_assoc]

end Sys2Proof.Machine

/-! ## `CONFIG` and its arithmetic (R76 to R90)

First the quotients as numbers; then `configure` by whether its operands are valid, from which each statement about an
executed `CONFIG` is read off. -/

namespace Sys2Proof.Machine

/-! ### The derived constants as numbers (R78 to R80, R89, R90) -/

theorem halfPeriod_eq_zero_iff (t : Nat) {f : Nat} (hf : 1 ≤ f) : halfPeriod t f = 0 ↔ t < 2 * f :=
  Nat.div_eq_zero_iff_lt (by omega)

/-- Settles O21: a quotient is 0 exactly when the divisor exceeds the dividend. -/
theorem halfPeriodZeroWhenTooFast : Obligations.HalfPeriodZeroWhenTooFast :=
  fun t _ hf => halfPeriod_eq_zero_iff t hf

/-- Settles O23: the two bounds of a quotient that is rounded toward zero. -/
theorem quietShortfallBelowOneTick : Obligations.QuietShortfallBelowOneTick := fun q t =>
  ⟨Nat.div_mul_le_self (q * t) 1000000, Nat.lt_mul_of_div_lt (Nat.lt_succ_self _) (by decide)⟩

/-- The clock is at or above the target when `f` periods of it take no more than the ticks of a second. -/
theorem le_producedHz_iff (t f : Nat) {half : Nat} (hhalf : half ≠ 0) :
    (f : ℚ) ≤ producedHz t half ↔ f * (2 * half) ≤ t := by
  have hpos : (0 : ℚ) < 2 * half := by positivity
  rw [producedHz, le_div_iff₀ hpos]
  exact_mod_cast Iff.rfl

/-- The clock is at the target when `f` periods of it take just the ticks of a second. -/
theorem producedHz_eq_iff (t f : Nat) {half : Nat} (hhalf : half ≠ 0) :
    producedHz t half = (f : ℚ) ↔ t = f * (2 * half) := by
  have hne : (2 * half : ℚ) ≠ 0 := by positivity
  rw [producedHz, div_eq_iff hne]
  exact_mod_cast Iff.rfl

/-- Settles O22: `f` periods take `2 f` half periods, which is at most `t`, and is `t` exactly when `2 f` divides it. -/
theorem producedClockAtOrAboveTarget : Obligations.ProducedClockAtOrAboveTarget := by
  intro t f hf ht
  have hhalf : halfPeriod t f ≠ 0 := mt (halfPeriod_eq_zero_iff t hf).1 ht.not_gt
  have hticks : f * (2 * halfPeriod t f) = t / (2 * f) * (2 * f) := by rw [halfPeriod]; ring
  rw [le_producedHz_iff t f hhalf, producedHz_eq_iff t f hhalf, hticks]
  exact ⟨Nat.div_mul_le_self t (2 * f), eq_comm.trans (Nat.dvd_iff_div_mul_eq t (2 * f)).symm⟩

/-! ### When `CONFIG` succeeds (R77, R80, R81, R88) -/

/-- The operands that `CONFIG` accepts: the frequency lies in the band and a half period is at least one tick. -/
def OperandsValid (t f : Operand) : Prop := 1000 ≤ f.toNat ∧ f.toNat ≤ 512000 ∧ 2 * f.toNat ≤ t.toNat

theorem inBand_iff (f : Nat) : inBand Config.params f = true ↔ 1000 ≤ f ∧ f ≤ 512000 :=
  Bool.and_eq_true_iff.trans (and_congr decide_eq_true_iff decide_eq_true_iff)

/-- Both checks of `CONFIG` pass exactly for valid operands. -/
theorem checks_pass_iff (t f : Operand) :
    inBand Config.params f.toNat = true ∧ halfPeriod t.toNat f.toNat ≠ 0 ↔ OperandsValid t f := by
  rw [inBand_iff, OperandsValid, and_assoc]
  refine and_congr_right fun hmin => and_congr_right fun _ => ?_
  rw [Ne, halfPeriod_eq_zero_iff _ (by omega), not_lt]

theorem configure_of_valid {t f : Operand} (h : OperandsValid t f) (q : Operand) (e : Engine) :
    configure Config.params t f q e =
      configSucceeds (halfPeriod t.toNat f.toNat) (quietPeriod q.toNat t.toNat) e := by
  obtain ⟨hband, hhalf⟩ := (checks_pass_iff t f).2 h
  exact (if_pos hband).trans (if_neg hhalf)

theorem configure_of_not_valid {t f : Operand} (h : ¬ OperandsValid t f) (q : Operand) (e : Engine) :
    configure Config.params t f q e = raise .frequencyOutOfRange e := by
  obtain ⟨hband, hhalf, -⟩ | ⟨-, heq⟩ := configure_cases Config.params t f q e
  · exact absurd ((checks_pass_iff t f).1 ⟨hband, hhalf⟩) h
  · exact heq

theorem exec_config_of_idle (t f q : Operand) {s : State} (h : s.eng.state = .idle) :
    exec (.config t f q) s = .next { s with eng := configure Config.params t f q s.eng, port := none } :=
  if_pos ((accepts_config s.eng t f q).2 h)

/-! ### What an executed `CONFIG` leaves (R84 to R86, R88, R131, R132) -/

/-- Settles O17: valid operands make `configure` succeed, which writes these registers only. -/
theorem configWritesDerivedConstants : Obligations.ConfigWritesDerivedConstants := by
  intro s t f q hidle hmin hmax hhalf
  refine ⟨_, exec_config_of_idle t f q hidle, ?_⟩
  rw [configure_of_valid ⟨hmin, hmax, hhalf⟩]
  rfl

/-- An unconfigured engine in `Idle` accepts a `CONFIG` and nothing else. -/
theorem cmdReady_of_unconfigured {e : Engine} (hidle : e.state = .idle) (hconf : e.configured = false) (w : CmdWord) :
    cmdReady e w = cmdOpBit w := by
  simp [cmdReady, busy, hidle, hconf]

/-- Settles O18: any other operands raise the error, which clears these registers only. -/
theorem configFailureClearsConfiguration : Obligations.ConfigFailureClearsConfiguration := by
  intro s t f q hidle hbad
  have hnot : ¬ OperandsValid t f := fun ⟨_, _, _⟩ => by omega
  refine ⟨_, exec_config_of_idle t f q hidle, ?_⟩
  rw [configure_of_not_valid hnot]
  exact ⟨rfl, cmdReady_of_unconfigured hidle rfl⟩

/-- Settles O19: the quotients written fit their registers. -/
theorem configArithmeticIsExact : Obligations.ConfigArithmeticIsExact := by
  intro s t f q hidle hmin hmax hhalf
  refine ⟨_, exec_config_of_idle t f q hidle, ?_⟩
  rw [configure_of_valid ⟨hmin, hmax, hhalf⟩]
  exact ⟨halfPeriod_toNat ((inBand_iff _).2 ⟨hmin, hmax⟩) t, quietPeriod_toNat q t⟩

/-- Settles O20: valid operands succeed with a half period that is not 0, any others raise the error. -/
theorem configSucceedsExactlyWhenValid : Obligations.ConfigSucceedsExactlyWhenValid := by
  intro s t f q hidle
  refine ⟨_, exec_config_of_idle t f q hidle, ?_⟩
  by_cases hvalid : OperandsValid t f
  · obtain ⟨hband, hhalf⟩ := (checks_pass_iff t f).2 hvalid
    rw [configure_of_valid hvalid]
    refine ⟨iff_of_true rfl hvalid, iff_of_true rfl rfl, iff_of_false (by simp) (by simp), fun _ => ?_⟩
    exact (Nat.one_le_iff_ne_zero.2 hhalf).trans_eq (halfPeriod_toNat hband t).symm
  · rw [configure_of_not_valid hvalid]
    exact ⟨iff_of_false nofun hvalid, iff_of_false (by simp) nofun, iff_of_true rfl rfl, nofun⟩

/-! ### A second `CONFIG` (R87) -/

/-- The engines differ at most in the registers that `CONFIG` writes and in the trace. -/
def SameButConfig (e e' : Engine) : Prop :=
  e' = { e with half := e'.half, quiet := e'.quiet, configured := e'.configured, rsp := e'.rsp, trace := e'.trace }

theorem sameButConfig_configure (p : Params) (t f q : Operand) (e : Engine) :
    SameButConfig e (configure p t f q e) := by
  obtain ⟨-, -, heq⟩ | ⟨-, heq⟩ := configure_cases p t f q e
  · rw [heq]; rfl
  · rw [heq]; rfl

/-- `CONFIG` overwrites every register in which such engines differ. -/
theorem SameButConfig.configure_eq {e e' : Engine} (h : SameButConfig e e') (t f q : Operand) :
    configure Config.params t f q e' =
      { configure Config.params t f q e with trace := (configure Config.params t f q e').trace } := by
  rw [h]
  by_cases hvalid : OperandsValid t f
  · simp only [configure_of_valid hvalid]; rfl
  · simp only [configure_of_not_valid hvalid]; rfl

/-- Settles O24: the first `CONFIG` changes only what the second one overwrites. -/
theorem configReplacesConfiguration : Obligations.ConfigReplacesConfiguration := by
  intro s t f q t₂ f₂ q₂ hidle
  have hsame := sameButConfig_configure Config.params t f q s.eng
  have hidle' : (configure Config.params t f q s.eng).state = .idle := by rw [hsame]; exact hidle
  refine ⟨_, _, _, exec_config_of_idle t f q hidle, exec_config_of_idle t₂ f₂ q₂ hidle',
    exec_config_of_idle t₂ f₂ q₂ hidle, ?_⟩
  exact congrArg (fun e => { s with eng := e, port := none }) (hsame.configure_eq t₂ f₂ q₂)

end Sys2Proof.Machine

/-! ## The waits and the clock waveform (R98, R111, R119) -/

namespace Sys2Proof.Machine

/-! ### The waits (R98, R119) -/

theorem waitHalf_cnt_toNat (ph : Phase) (e : Engine) : (waitHalf ph e).cnt.toNat = e.half.toNat := by
  rw [waitHalf_cnt, BitVec.toNat_setWidth, Nat.mod_eq_of_lt (by omega)]

theorem waitBounds_of_idle {e : Engine} (hs : e.state = .idle) : WaitBounds e := by simp [WaitBounds, hs]

/-- A half-period wait is loaded with `HALF`. -/
theorem waitBounds_waitHalf (ph : Phase) {e : Engine} (hs : e.state = .clocking) : WaitBounds (waitHalf ph e) :=
  ⟨fun _ => (waitHalf_cnt_toNat ph e).le, fun h => by simp [hs] at h⟩

theorem Reacts.waitBounds {ev : Option Event} {e e' : Engine} (h : Reacts ev e e') (he : WaitBounds e) :
    WaitBounds e' := by
  cases h with
  | present | waits => exact he
  | reset | abortsStart | abortsDriveHigh | abortsSample | abortsDriveLow | skipsQuiet | endsQuiet =>
    exact waitBounds_of_idle rfl
  | configures _ _ hstate | rejectsConfig _ _ hstate | idles _ hstate => exact waitBounds_of_idle hstate
  | startsScan => exact waitBounds_waitHalf _ rfl
  | samples hstate | nextCycle hstate => exact waitBounds_waitHalf _ hstate
  | counts =>
    obtain ⟨hclocking, hquiet⟩ := he
    have hless : (countDown e.cnt).toNat ≤ e.cnt.toNat := (countDown_toNat _).trans_le (Nat.sub_le _ _)
    exact ⟨fun h => hless.trans (hclocking h), fun h => hless.trans (hquiet h)⟩
  | entersQuiet => exact ⟨nofun, fun _ => le_rfl⟩

/-- Settles O41: each wait begins with the constant that loads it, and a count only lowers `CNT`. -/
theorem waitBoundsKept : Obligations.WaitBoundsKept :=
  fun _ _ hs h => (step_reacts h).waitBounds hs

/-! ### The clock waveform (R21, R111) -/

/-- The level shown by a trace is that shown by its end, from the level its beginning shows. -/
theorem lineLevel_append (l : Level) (xs ys : List Stamped) :
    lineLevel l (xs ++ ys) = lineLevel (lineLevel l xs) ys := by
  induction xs generalizing l with
  | nil => rfl
  | cons x xs ih =>
    obtain ⟨n, ev⟩ := x
    cases ev <;> exact ih _

theorem waveformInv_driveClk (p : Params) (l : Level) (e : Engine) : WaveformInv p (driveClk l e) := by
  cases l <;> simp [WaveformInv, lineLevel_append, lineLevel]

/-- Events that are no drive of the clock line, added to the trace of an engine at the same level, keep the waveform. -/
theorem WaveformInv.append {p : Params} {e e' : Engine} {xs : List Stamped} (he : WaveformInv p e)
    (hclk : e'.clk = e.clk) (htrace : e'.trace = e.trace ++ xs) (hxs : ∀ l, lineLevel l xs = l) :
    WaveformInv p e' := by
  rw [WaveformInv, hclk, htrace, lineLevel_append, hxs]
  exact he

theorem Reacts.waveformInv {ev : Option Event} {e e' : Engine} (h : Reacts ev e e')
    (he : WaveformInv Config.params e) : WaveformInv Config.params e' := by
  cases h with
  | present | waits | idles | counts | entersQuiet => exact he
  | reset => rfl
  | startsScan | nextCycle => exact waveformInv_driveClk _ .low _
  | samples | abortsSample => exact (waveformInv_driveClk _ .high _).append rfl rfl fun _ => rfl
  | abortsStart | configures | rejectsConfig | abortsDriveHigh | abortsDriveLow | skipsQuiet | endsQuiet =>
    exact he.append rfl rfl fun _ => rfl

/-- Settles O45: a drive sets the line to the level it records, and no other reaction but `Reset` touches the line or
records a drive. -/
theorem clockLineFollowsTrace : Obligations.ClockLineFollowsTrace :=
  fun _ _ hs h => (step_reacts h).waveformInv hs

end Sys2Proof.Machine

/-! ## The reactions of a scan, one by one (R93 to R105, R119) -/

namespace Sys2Proof.Machine

/-- Settles O8: the step's own case for an offered word. -/
theorem stepRunsOfferedCommand : Obligations.StepRunsOfferedCommand :=
  fun _ _ _ _ hpending => step_of_offer hpending

theorem step_of_tick {s : State} {l : Lines} {es : List Event} (h : s.pending = .tick l :: es) :
    step s = .next { s with pending := es, line := l, eng := onTick Config.params l s.eng } := by
  rw [step, h]
  rfl

/-- Settles O27: the reaction to a tick in `Idle`. -/
theorem tickInIdleOnlyCountsTime : Obligations.TickInIdleOnlyCountsTime := by
  intro s l es hpending hstate
  rw [step_of_tick hpending, onTick_idle hstate]

/-! ### The accesses when there is no line fault -/

theorem driveLow_of_no_fault {l : Lines} (hdrive : l.errDrive = false) (e : Engine) :
    driveLow Config.params l e = waitHalf .low (driveClk .low e) :=
  if_neg (by simp [hdrive])

theorem driveHighAndSample_of_no_fault {l : Lines} (hdrive : l.errDrive = false) (hread : l.errSample = false)
    (e : Engine) :
    driveHighAndSample Config.params l e = waitHalf .high (storeSample l.data (driveClk .high e)) :=
  (if_neg (by simp [hdrive])).trans (if_neg (by simp [hread]))

/-- Settles O25: the accepted `SCAN` is granted its first access. -/
theorem scanBeginsFirstCycle : Obligations.ScanBeginsFirstCycle := by
  intro s hstate hconf hdrive
  have haccept : accepts s.eng .scan = true := (accepts_scan _).2 ⟨hstate, hconf⟩
  rw [exec, execScan, if_pos haccept, startScan, driveLow_of_no_fault hdrive]
  rfl

/-! ### The reaction to a tick in a wait, by its position -/

section
variable {l : Lines} {e : Engine}

theorem onTick_counts (hstate : e.state ≠ .idle) (hcnt : 2 ≤ e.cnt.toNat) :
    onTick Config.params l e = { e with now := e.now + 1, cnt := countDown e.cnt } :=
  onTick_within hstate (mt (countDown_eq_zero _).1 (by omega))

theorem onTick_ends (hstate : e.state ≠ .idle) (hcnt : e.cnt.toNat ≤ 1) :
    onTick Config.params l e = waitDone Config.params l { e with now := e.now + 1, cnt := 0 } :=
  onTick_over hstate ((countDown_eq_zero _).2 hcnt)

theorem onTick_low (hstate : e.state = .clocking) (hph : e.ph = .low) (hcnt : e.cnt.toNat ≤ 1) :
    onTick Config.params l e = driveHighAndSample Config.params l { e with now := e.now + 1, cnt := 0 } := by
  rw [onTick_ends (by simp [hstate]) hcnt]
  simp only [waitDone, hstate, hph]

theorem onTick_high_of_lt (hstate : e.state = .clocking) (hph : e.ph = .high) (hcnt : e.cnt.toNat ≤ 1)
    (hidx : e.idx.toNat < 15) :
    onTick Config.params l e = driveLow Config.params l { e with now := e.now + 1, cnt := 0, idx := e.idx + 1 } := by
  rw [onTick_ends (by simp [hstate]) hcnt]
  simp only [waitDone, hstate, hph]
  exact if_pos hidx

theorem onTick_high_last (hstate : e.state = .clocking) (hph : e.ph = .high) (hcnt : e.cnt.toNat ≤ 1)
    (hidx : e.idx = 15) : onTick Config.params l e = enterQuiet { e with now := e.now + 1, cnt := 0 } := by
  rw [onTick_ends (by simp [hstate]) hcnt]
  simp only [waitDone, hstate, hph]
  exact if_neg (by simp [hidx])

theorem onTick_quietWait (hstate : e.state = .quietWait) (hcnt : e.cnt.toNat ≤ 1) :
    onTick Config.params l e = respondFrame { e with now := e.now + 1, cnt := 0 } := by
  rw [onTick_ends (by simp [hstate]) hcnt]
  simp only [waitDone, hstate]

end

/-- Settles O28: a wait that is not over only counts. -/
theorem tickCountsDownTheWait : Obligations.TickCountsDownTheWait := by
  intro s l es hpending hstate hcnt
  have hcount := countDown_toNat s.eng.cnt
  refine ⟨_, step_of_tick hpending, ?_⟩
  rw [onTick_counts hstate hcnt]
  exact ⟨rfl, by simp only; omega⟩

theorem channelActive_eq_true (l : Level) : channelActive l = true ↔ l = .low := by
  cases l <;> simp [channelActive]

/-- Settles O29: both accesses are granted, and the sample writes the bit of its own channel only. -/
theorem lowWaitEndsInSample : Obligations.LowWaitEndsInSample := by
  intro s l es hpending hstate hph hcnt hdrive hread
  refine ⟨_, step_of_tick hpending, ?_⟩
  rw [onTick_low hstate hph (by simp [hcnt]), driveHighAndSample_of_no_fault hdrive hread]
  have hbit := getLsbD_setFrameBit s.eng.acc s.eng.idx.isLt (channelActive l.data)
  refine ⟨by simp [waitHalf, storeSample, driveClk, emit], ?_, fun j hj => (hbit j).trans (if_neg hj)⟩
  simp [hbit, channelActive_eq_true]

theorem toNat_idx_succ {i : BitVec 4} (hi : i.toNat < 15) : (i + 1).toNat = i.toNat + 1 := by bv_omega

/-- Settles O30: the next channel's first access is granted. -/
theorem highWaitEndsInNextChannel : Obligations.HighWaitEndsInNextChannel := by
  intro s l es hpending hstate hph hcnt hidx hdrive
  refine ⟨_, step_of_tick hpending, ?_⟩
  rw [onTick_high_of_lt hstate hph (by simp [hcnt]) hidx, driveLow_of_no_fault hdrive]
  exact ⟨rfl, toNat_idx_succ hidx⟩

/-- Settles O31: after channel 15 comes the quiet wait. -/
theorem lastCycleEndsInQuietWait : Obligations.LastCycleEndsInQuietWait := by
  intro s l es hpending hstate hph hcnt hidx hquiet
  rw [step_of_tick hpending, onTick_high_last hstate hph (by simp [hcnt]) hidx]
  exact congrArg (fun e => Host.Outcome.next { s with pending := es, line := l, eng := e }) (if_neg hquiet)

end Sys2Proof.Machine

/-! ## Runs as reactions to the events that happen (R95, R107, R112, R145)

The engine a run leads to depends only on the events that happen in it; an offer during a scan is none of the events that
count. -/

namespace Sys2Proof.Machine

/-! ### The engine after the events of a run -/

/-- The reaction to an accepted instruction. -/
def reactToCommand (l : Lines) (e : Engine) : Instr → Engine
  | .scan => startScan Config.params l e
  | .config t f q => configure Config.params t f q e

/-- The reaction of the engine to an event. -/
def react (e : Engine) : Event → Engine
  | .reset => Engine.resetWith Config.params
  | .tick l => onTick Config.params l e
  | .offer w l => if accepts e (decode w) then reactToCommand l e (decode w) else e

/-- During a scan an offer has no effect. -/
theorem react_offer_of_busy {e : Engine} (h : e.state ≠ .idle) (w : CmdWord) (l : Lines) :
    react e (.offer w l) = e :=
  if_neg (by simp [accepts_of_busy _ h])

theorem step_eng {s t : State} (h : step s = .next t) : t.eng = s.pending.head?.toList.foldl react s.eng := by
  obtain ⟨hp, rfl⟩ | ⟨es, hp, rfl⟩ | ⟨l, es, hp, rfl⟩ | ⟨w, l, es, hp, hd, ha, rfl⟩ |
    ⟨w, l, es, a, b, c, hp, hd, ha, rfl⟩ | ⟨w, l, es, hp, ha, rfl⟩ := step_cases h
  all_goals simp only [hp, List.head?_nil, List.head?_cons, Option.toList_none, Option.toList_some, List.foldl_cons,
    List.foldl_nil, react]
  · exact presentInstant_eng s
  · rfl
  · rfl
  · rw [hd, if_pos ha]; rfl
  · rw [hd, if_pos ha]; rfl
  · rw [if_neg (by simp [ha])]

theorem runSteps_eng {k : Nat} {s t : State} (h : runSteps k s = .next t) :
    t.eng = (happened k s).foldl react s.eng := by
  induction k generalizing s with
  | zero => cases h; rfl
  | succ k ih =>
    obtain ⟨u, hu⟩ := exists_step_eq_next s
    rw [ih ((runSteps_succ k hu).symm.trans h), step_eng hu, happened_succ k hu, List.foldl_append]

theorem exists_runSteps_eq_next (k : Nat) (s : State) : ∃ t, runSteps k s = .next t := by
  induction k generalizing s with
  | zero => exact ⟨s, rfl⟩
  | succ k ih =>
    obtain ⟨u, hu⟩ := exists_step_eq_next s
    obtain ⟨t, ht⟩ := ih u
    exact ⟨t, (runSteps_succ k hu).trans ht⟩

/-- A run in which something happens has a first part in which only the first event does. -/
theorem exists_run_to_first_event {k : Nat} {s : State} {ev : Event} {es : List Event}
    (h : happened k s = ev :: es) :
    ∃ j k' u, k = j + k' ∧ runSteps j s = .next u ∧ happened j s = [ev] ∧ happened k' u = es := by
  induction k generalizing s with
  | zero => cases h
  | succ k ih =>
    obtain ⟨u, hu⟩ := exists_step_eq_next s
    rw [happened_succ k hu] at h
    cases hhead : s.pending.head? with
    | some ev' =>
      rw [hhead] at h
      cases h
      exact ⟨1, k, u, Nat.add_comm .., runSteps_succ 0 hu, by rw [happened_succ 0 hu, hhead]; rfl, rfl⟩
    | none =>
      rw [hhead] at h
      obtain ⟨j, k', v, rfl, hv, hj, hk'⟩ := ih h
      exact ⟨j + 1, k', v, by omega, (runSteps_succ j hu).trans hv, by rw [happened_succ j hu, hhead, hj]; rfl, hk'⟩

/-! ### Offers during a scan (R107) -/

/-- The engine that meets these events is in a scan whenever one of them happens. -/
def BusyBefore : List Event → Engine → Prop
  | [], _ => True
  | ev :: es, e => e.state ≠ .idle ∧ BusyBefore es (react e ev)

theorem busyBefore_append {xs ys : List Event} {e : Engine} :
    BusyBefore (xs ++ ys) e ↔ BusyBefore xs e ∧ BusyBefore ys (xs.foldl react e) := by
  induction xs generalizing e with
  | nil => simp [BusyBefore]
  | cons x xs ih => simp [BusyBefore, ih, and_assoc]

/-- A run in which only the last state may be `Idle` is busy before each of its events. -/
theorem busyBefore_happened {k : Nat} {s : State}
    (h : ∀ j v, j < k → runSteps j s = .next v → v.eng.state ≠ .idle) : BusyBefore (happened k s) s.eng := by
  induction k generalizing s with
  | zero => trivial
  | succ k ih =>
    obtain ⟨u, hu⟩ := exists_step_eq_next s
    have hs : s.eng.state ≠ .idle := h 0 s (Nat.succ_pos k) rfl
    rw [happened_succ k hu, busyBefore_append, ← step_eng hu]
    refine ⟨?_, ih fun j v hj hv => h (j + 1) v (Nat.succ_lt_succ hj) ((runSteps_succ j hu).trans hv)⟩
    cases s.pending.head? with
    | none => trivial
    | some ev => exact ⟨hs, trivial⟩

/-- During a scan only the ticks count. -/
theorem BusyBefore.foldl_eq_ticksOnly {es : List Event} {e : Engine} (h : BusyBefore es e)
    (hreset : noReset es = true) :
    es.foldl react e = (ticksOnly es).foldl react e ∧ BusyBefore (ticksOnly es) e := by
  induction es generalizing e with
  | nil => exact ⟨rfl, trivial⟩
  | cons ev es ih =>
    obtain ⟨hbusy, hrest⟩ := h
    cases ev with
    | reset => cases hreset
    | tick l =>
      obtain ⟨hfold, hbefore⟩ := ih hrest hreset
      exact ⟨hfold, hbusy, hbefore⟩
    | offer w l =>
      rw [react_offer_of_busy hbusy] at hrest
      rw [List.foldl_cons, react_offer_of_busy hbusy]
      exact ih hrest hreset

/-- Settles O55: both engines are that of the first after its ticks. -/
theorem offersDoNotDisturbScan : Obligations.OffersDoNotDisturbScan := by
  intro k k' s s' t u heng ht hu hreset hticks hbusy
  obtain ⟨hfold, -⟩ := (busyBefore_happened hbusy).foldl_eq_ticksOnly hreset
  rw [runSteps_eng ht, hfold, runSteps_eng hu, hticks, heng]

/-! ### Ticks never stop (R145) -/

/-- The events of the present instant are all processed after some steps, which leave the environment as it is. -/
theorem exists_run_to_next_instant (s : State) : ∃ k t, runSteps k s = .next t ∧ t.pending = [] ∧
    t.inputs = s.inputs ∧ t.instants = s.instants ∧ t.tickWithin = s.tickWithin := by
  induction hp : s.pending generalizing s with
  | nil => exact ⟨0, s, rfl, hp, rfl, rfl, rfl⟩
  | cons ev es ih =>
    obtain ⟨u, hu⟩ := exists_step_eq_next s
    have hframe : u.pending = es ∧ u.inputs = s.inputs ∧ u.instants = s.instants ∧ u.tickWithin = s.tickWithin := by
      obtain ⟨hp', rfl⟩ | ⟨es', hp', rfl⟩ | ⟨l, es', hp', rfl⟩ | ⟨w, l, es', hp', -, -, rfl⟩ |
        ⟨w, l, es', a, b, c, hp', -, -, rfl⟩ | ⟨w, l, es', hp', -, rfl⟩ := step_cases hu
      all_goals cases hp.symm.trans hp'
      all_goals exact ⟨rfl, rfl, rfl, rfl⟩
    obtain ⟨hpending, hinputs, hinstants, hwithin⟩ := hframe
    obtain ⟨k, t, ht, htp, hti, htn, htw⟩ := ih u hpending
    exact ⟨k + 1, t, (runSteps_succ k hu).trans ht, htp, hti.trans hinputs, htn.trans hinstants, htw.trans hwithin⟩

theorem step_of_no_event {s : State} (h : s.pending = []) : step s = .next (presentInstant s) := by rw [step, h]

/-- The listed instants are used up after some steps. -/
theorem exists_run_to_free_instants (s : State) : ∃ k t, runSteps k s = .next t ∧ t.pending = [] ∧ t.inputs = [] := by
  induction hi : s.inputs generalizing s with
  | nil =>
    obtain ⟨k, t, ht, hp, hti, -⟩ := exists_run_to_next_instant s
    exact ⟨k, t, ht, hp, hti.trans hi⟩
  | cons i is ih =>
    obtain ⟨k, u, hu, hp, hui, -⟩ := exists_run_to_next_instant s
    have hinputs : (presentInstant u).inputs = is := by simp only [presentInstant, hui, hi]
    obtain ⟨m, t, ht, htp, hti⟩ := ih (presentInstant u) hinputs
    exact ⟨k + (m + 1), t, by rw [runSteps_add k _ hu, runSteps_succ m (step_of_no_event hp), ht], htp, hti⟩

/-- The gap between the ticks of the free instants ends. -/
theorem exists_run_to_free_tick {s : State} (hp : s.pending = []) (hi : s.inputs = []) :
    ∃ k t l, runSteps k s = .next t ∧ t.pending.head? = some (.tick l) := by
  induction hd : tickDue s generalizing s with
  | zero =>
    refine ⟨1, presentInstant s, (Config.freeInstant s.instants).tickLine, runSteps_succ 0 (step_of_no_event hp), ?_⟩
    simp [presentInstant, hi, hd, withTick, eventsOf]
  | succ n ih =>
    obtain ⟨k, u, hu, hup, hui, -, huw⟩ := exists_run_to_next_instant (presentInstant s)
    simp only [presentInstant, hi, hd] at hui huw
    obtain ⟨m, t, l, ht, htl⟩ := ih hup (hui.trans hi) (by simp [tickDue, huw])
    exact ⟨k + m + 1, t, l, by rw [runSteps_succ _ (step_of_no_event hp), runSteps_add k m hu, ht], htl⟩

/-- From every state there is always another tick to come. -/
theorem ticksForever (s : State) : TicksForever s := by
  intro n
  obtain ⟨u, hu⟩ := exists_runSteps_eq_next n s
  obtain ⟨k, v, hv, hp, hi⟩ := exists_run_to_free_instants u
  obtain ⟨m, t, l, ht, htl⟩ := exists_run_to_free_tick hp hi
  exact ⟨n + (k + m), t, l, Nat.le_add_right .., by rw [runSteps_add n _ hu, runSteps_add k m hv, ht], htl⟩

/-- As many ticks as one likes happen in a run that is long enough. -/
theorem exists_tickCount_ge (m : Nat) (s : State) : ∃ k, m ≤ tickCount (happened k s) := by
  induction m generalizing s with
  | zero => exact ⟨0, Nat.zero_le _⟩
  | succ m ih =>
    obtain ⟨j, u, l, -, hu, hl⟩ := ticksForever s 0
    obtain ⟨v, hv⟩ := exists_step_eq_next u
    obtain ⟨k, hk⟩ := ih v
    refine ⟨j + (k + 1), ?_⟩
    rw [happened_add j _ hu, happened_succ k hv, hl, tickCount_append, tickCount_append]
    simp only [Option.toList_some, tickCount]
    omega

/-! ### A scan ends (R112) -/

/-- The ticks still to be counted when every wait takes `d` ticks more than the constant that loads it: with `d = 0` the
ticks still due, with `d = 1` a bound that holds even where a wait of 0 ticks takes one (log entry 6). -/
def ticksLeftWith (d : Nat) (e : Engine) : Nat :=
  match e.state, e.ph with
  | .idle, _ => 0
  | .clocking, .low =>
    e.cnt.toNat + d + (2 * (15 - e.idx.toNat) + 1) * (e.half.toNat + d) + (e.quiet.toNat + d)
  | .clocking, .high => e.cnt.toNat + d + 2 * (15 - e.idx.toNat) * (e.half.toNat + d) + (e.quiet.toNat + d)
  | .quietWait, _ => e.cnt.toNat + d

theorem ticksLeftWith_zero (e : Engine) : ticksLeftWith 0 e = ticksLeft e := rfl

theorem one_le_ticksLeftWith {d : Nat} {e : Engine} (hbusy : e.state ≠ .idle) (hcnt : 1 ≤ e.cnt.toNat + d) :
    1 ≤ ticksLeftWith d e := by
  unfold ticksLeftWith
  split
  · contradiction
  all_goals omega

/-- Each tick of a scan takes at least one of the ticks left, and no other event adds to them. -/
theorem Reacts.ticksLeftWith {ev : Option Event} {e e' : Engine} (h : Reacts ev e e') (d : Nat)
    (hbusy : e.state ≠ .idle) (hcnt : 1 ≤ e.cnt.toNat + d) :
    e'.state = .idle ∨ ticksLeftWith d e' + tickCount ev.toList ≤ ticksLeftWith d e := by
  cases h with
  | present | waits => exact .inr le_rfl
  | reset | abortsStart | abortsDriveHigh | abortsSample | abortsDriveLow | skipsQuiet | endsQuiet => exact .inl rfl
  | startsScan _ hstate | configures _ _ hstate | rejectsConfig _ _ hstate | idles _ hstate =>
    exact absurd hstate hbusy
  | counts _ _ hcnt =>
    have hless := countDown_toNat e.cnt
    refine .inr ?_
    cases hs : e.state with
    | idle => exact absurd hs hbusy
    | clocking => cases hp : e.ph <;> simp only [Machine.ticksLeftWith, hs, hp, Option.toList_some, tickCount] <;> omega
    | quietWait => simp only [Machine.ticksLeftWith, hs, Option.toList_some, tickCount]; omega
  | samples hstate hph =>
    refine .inr ?_
    simp [Machine.ticksLeftWith, hstate, hph, -waitHalf_cnt, waitHalf_cnt_toNat, tickCount, Nat.add_one_mul]
    omega
  | nextCycle hstate hph _ hidx =>
    have hnext : 15 - e.idx.toNat = 15 - (e.idx + 1).toNat + 1 := by rw [toNat_idx_succ hidx]; omega
    refine .inr ?_
    simp [Machine.ticksLeftWith, hstate, hph, -waitHalf_cnt, waitHalf_cnt_toNat, tickCount, hnext, Nat.mul_add_one,
      Nat.add_mul]
    omega
  | entersQuiet _ hstate hph _ hidx =>
    refine .inr ?_
    simp only [Machine.ticksLeftWith, hstate, hph, Option.toList_some, tickCount]
    omega

theorem RestInv.one_le_ticksLeft {e : Engine} (h : RestInv e) (hbusy : e.state ≠ .idle) : 1 ≤ ticksLeft e := by
  rw [← ticksLeftWith_zero]
  exact one_le_ticksLeftWith hbusy (h.2 hbusy).1

theorem Reacts.ticksLeft {ev : Option Event} {e e' : Engine} (h : Reacts ev e e') (hrest : RestInv e)
    (hbusy : e.state ≠ .idle) : e'.state = .idle ∨ ticksLeft e' + tickCount ev.toList ≤ ticksLeft e := by
  rw [← ticksLeftWith_zero, ← ticksLeftWith_zero]
  exact h.ticksLeftWith 0 hbusy (hrest.2 hbusy).1

/-- A scan ends within as many ticks as a measure of the engine says, if the measure is kept by every reaction during the
scan with the ticks taken off. -/
theorem exists_idle_of_tickCount {I : Engine → Prop} {μ : Engine → Nat}
    (hpos : ∀ e, I e → e.state ≠ .idle → 1 ≤ μ e)
    (hstep : ∀ {ev e e'}, Reacts ev e e' → I e → e.state ≠ .idle →
      e'.state = .idle ∨ (I e' ∧ μ e' + tickCount ev.toList ≤ μ e))
    (k : Nat) {s : State} (hs : I s.eng) (hticks : μ s.eng ≤ tickCount (happened k s)) :
    ∃ j t, j ≤ k ∧ runSteps j s = .next t ∧ t.eng.state = .idle := by
  induction k generalizing s with
  | zero =>
    have hidle : s.eng.state = .idle := by
      by_contra hbusy
      have := hpos _ hs hbusy
      simp only [happened_zero, tickCount] at hticks
      omega
    exact ⟨0, s, le_rfl, rfl, hidle⟩
  | succ k ih =>
    by_cases hbusy : s.eng.state = .idle
    · exact ⟨0, s, Nat.zero_le _, rfl, hbusy⟩
    obtain ⟨u, hu⟩ := exists_step_eq_next s
    obtain hidle | ⟨hI, hless⟩ := hstep (step_reacts hu) hs hbusy
    · exact ⟨1, u, by omega, runSteps_succ 0 hu, hidle⟩
    · rw [happened_succ k hu, tickCount_append] at hticks
      obtain ⟨j, t, hj, ht, hidle⟩ := ih hI (by omega)
      exact ⟨j + 1, t, Nat.succ_le_succ hj, (runSteps_succ j hu).trans ht, hidle⟩

/-- Settles O56: on the invariants the measure is the ticks still due; on all states it allows one more for each wait. -/
theorem scanTerminates : Obligations.ScanTerminates := by
  refine ⟨fun k s hconfig hrest hticks => ?_, fun s => ?_⟩
  · refine exists_idle_of_tickCount (I := fun e => ConfigInv e ∧ RestInv e) (μ := ticksLeft) ?_ ?_ k
      ⟨hconfig, hrest⟩ hticks
    · rintro e ⟨-, hrest⟩ hbusy
      exact hrest.one_le_ticksLeft hbusy
    · rintro ev e e' h ⟨hconfig, hrest⟩ hbusy
      exact (h.ticksLeft hrest hbusy).imp_right fun hless =>
        ⟨⟨h.configInv hconfig, h.restInv hconfig hrest⟩, hless⟩
  · obtain ⟨k, hk⟩ := exists_tickCount_ge (ticksLeftWith 1 s.eng) s
    obtain ⟨j, t, -, ht, hidle⟩ := exists_idle_of_tickCount (I := fun _ => True) (μ := ticksLeftWith 1)
      (fun e _ hbusy => one_le_ticksLeftWith hbusy (Nat.le_add_left ..))
      (fun h _ hbusy => (h.ticksLeftWith 1 hbusy (Nat.le_add_left ..)).imp_right fun hless => ⟨trivial, hless⟩)
      k trivial hk
    exact ⟨j, t, ht, hidle⟩

end Sys2Proof.Machine

/-! ## A scan as the ticks after its acceptance

What happens from an accepted `SCAN` to its end is a number of ticks, each with the line levels of its tick count. -/

namespace Sys2Proof.Machine

/-! ### Ticks in an environment -/

/-- The engine `n` ticks after `e` in an environment, if nothing else happens. -/
def afterTicks (env : Nat → Lines) (e : Engine) : Nat → Engine
  | 0 => e
  | n + 1 => onTick Config.params (env (e.now + n + 1)) (afterTicks env e n)

theorem onTick_now (l : Lines) (e : Engine) : (onTick Config.params l e).now = e.now + 1 := by
  have h := onTick_reacts l e
  generalize onTick Config.params l e = e' at h
  cases h <;> rfl

theorem afterTicks_now (env : Nat → Lines) (e : Engine) (n : Nat) : (afterTicks env e n).now = e.now + n := by
  induction n with
  | zero => rfl
  | succ n ih => rw [afterTicks, onTick_now, ih, Nat.add_assoc]

theorem tickEvents_succ (env : Nat → Lines) (t n : Nat) :
    tickEvents env t (n + 1) = tickEvents env t n ++ [.tick (env (t + n + 1))] := by
  simp [tickEvents, List.range_succ]

theorem foldl_tickEvents (env : Nat → Lines) (e : Engine) (n : Nat) :
    (tickEvents env e.now n).foldl react e = afterTicks env e n := by
  induction n with
  | zero => rfl
  | succ n ih => rw [tickEvents_succ, List.foldl_append, ih]; rfl

theorem busyBefore_tickEvents (env : Nat → Lines) (e : Engine) (n : Nat) :
    BusyBefore (tickEvents env e.now n) e ↔ ∀ m < n, (afterTicks env e m).state ≠ .idle := by
  induction n with
  | zero => simp [tickEvents, BusyBefore]
  | succ n ih =>
    rw [tickEvents_succ, busyBefore_append, ih, foldl_tickEvents, Nat.forall_lt_succ_right]
    simp [BusyBefore]

/-! ### The acceptance of a scan -/

theorem react_accepted_scan {e : Engine} {w : CmdWord} (hdecode : decode w = .scan) (hstate : e.state = .idle)
    (hconf : e.configured = true) (l : Lines) : react e (.offer w l) = startScan Config.params l e := by
  have haccept : accepts e (decode w) = true := by rw [hdecode]; exact (accepts_scan e).2 ⟨hstate, hconf⟩
  rw [react, if_pos haccept, hdecode, reactToCommand]

theorem startScan_cases (l : Lines) (e : Engine) :
    (l.errDrive = false ∧ startScan Config.params l e =
        waitHalf .low (driveClk .low { e with acc := 0, idx := 0, state := .clocking })) ∨
      (l.errDrive = true ∧ startScan Config.params l e =
        raise .lineError { e with acc := 0, idx := 0, state := .clocking }) :=
  driveLow_cases Config.params l { e with acc := 0, idx := 0, state := .clocking }

section
variable (l : Lines) {e : Engine}

theorem startScan_now : (startScan Config.params l e).now = e.now := by
  obtain ⟨-, h⟩ | ⟨-, h⟩ := startScan_cases l e <;> rw [h] <;> rfl

theorem ticksLeft_startScan_le :
    ticksLeft (startScan Config.params l e) ≤ scanTicks e.half.toNat e.quiet.toNat := by
  obtain ⟨-, h⟩ | ⟨-, h⟩ := startScan_cases l e
  · rw [h]
    simp [ticksLeft, scanTicks, -waitHalf_cnt, waitHalf_cnt_toNat]
    omega
  · rw [h]
    simp [ticksLeft]

end

/-! ### What holds at every rest of a scan -/

/-- The invariants of the position of the sequencer, with the one of the configuration that they need. -/
structure PositionInv (e : Engine) : Prop where
  config : ConfigInv e
  rest : RestInv e
  wait : WaitBounds e
  clock : ClockInv e

theorem PositionInv.of_reacts {ev : Option Event} {e e' : Engine} (he : PositionInv e) (h : Reacts ev e e') :
    PositionInv e' :=
  ⟨h.configInv he.config, h.restInv he.config he.rest, h.waitBounds he.wait, h.clockInv he.clock⟩

theorem positionInv_startScan (l : Lines) {e : Engine} (hconf : e.configured = true) (hhalf : 1 ≤ e.half.toNat) :
    PositionInv (startScan Config.params l e) := by
  obtain ⟨-, h⟩ | ⟨-, h⟩ := startScan_cases l e
  · rw [h]
    exact ⟨.inl ⟨hconf, hhalf⟩, restInv_waitHalf _ nofun hhalf hconf, waitBounds_waitHalf _ rfl, by simp [ClockInv]⟩
  · rw [h]
    exact ⟨.inl ⟨hconf, hhalf⟩, restInv_of_idle rfl rfl, waitBounds_of_idle rfl, clockInv_of_idle rfl⟩

theorem PositionInv.afterTicks {e : Engine} (he : PositionInv e) (env : Nat → Lines) (n : Nat) :
    PositionInv (afterTicks env e n) := by
  induction n with
  | zero => exact he
  | succ n ih => exact ih.of_reacts (onTick_reacts _ _)

theorem PositionInv.cnt_ne_zero {e : Engine} (h : PositionInv e) (hbusy : e.state ≠ .idle) : e.cnt ≠ 0 := by
  have hone := (h.rest.2 hbusy).1
  bv_omega

/-! ### The ticks still due go down (R112) -/

/-- Ticks that meet a scan in progress are no more than were due, and what is due after them is the less. -/
theorem ticksLeft_afterTicks {env : Nat → Lines} {e : Engine} (he : PositionInv e) {n : Nat}
    (hbusy : ∀ m < n, (afterTicks env e m).state ≠ .idle) :
    n ≤ ticksLeft e ∧
      ((afterTicks env e n).state ≠ .idle → ticksLeft (afterTicks env e n) + n ≤ ticksLeft e) := by
  induction n with
  | zero => exact ⟨Nat.zero_le _, fun _ => le_rfl⟩
  | succ n ih =>
    obtain ⟨-, hleft⟩ := ih fun m hm => hbusy m (by omega)
    have hn := hbusy n (Nat.lt_succ_self n)
    have hinv := he.afterTicks env n
    have hleft := hleft hn
    have hone := hinv.rest.one_le_ticksLeft hn
    refine ⟨by omega, fun hn' => ?_⟩
    have hless : ticksLeft (afterTicks env e (n + 1)) + 1 ≤ ticksLeft (afterTicks env e n) :=
      ((onTick_reacts (env (e.now + n + 1)) (afterTicks env e n)).ticksLeft hinv.rest hn).resolve_left hn'
    omega

end Sys2Proof.Machine

/-! ## The blocking form of a scan (R93, R96, R108)

Where the event-driven machine rests, a part of the sequence of micro-operations is left to do. `resumeBlocking` takes the
blocking form up there; one tick of the machine does not change what it comes to. -/

namespace Sys2Proof.Machine

/-- The micro-operations from the cycle of channel `i` on (R96). -/
def opsFrom (i : Nat) : List MicroOp := (List.range' i (16 - i)).flatMap cycleOps ++ [.waitQuiet, .respond]

theorem scanOps_eq_opsFrom : scanOps = opsFrom 0 := by rw [scanOps, opsFrom, List.range_eq_range']

theorem opsFrom_of_lt {i : Nat} (hi : i < 16) :
    opsFrom i = .driveLow i :: .waitHalf i .low :: .driveHigh i :: .sample i :: .waitHalf i .high :: .next i ::
      opsFrom (i + 1) := by
  rw [opsFrom, show 16 - i = 16 - (i + 1) + 1 by omega, List.range'_succ, List.flatMap_cons, List.append_assoc]
  rfl

/-- The micro-operations left to do when the wait in progress is over. -/
def remainingOps (e : Engine) : List MicroOp :=
  match e.state, e.ph with
  | .idle, _ => []
  | .clocking, .low =>
    .driveHigh e.idx.toNat :: .sample e.idx.toNat :: .waitHalf e.idx.toNat .high :: .next e.idx.toNat ::
      opsFrom (e.idx.toNat + 1)
  | .clocking, .high => .next e.idx.toNat :: opsFrom (e.idx.toNat + 1)
  | .quietWait, _ => [.respond]

section
variable {e : Engine}

theorem remainingOps_idle (hstate : e.state = .idle) : remainingOps e = [] := by simp only [remainingOps, hstate]

theorem remainingOps_low (hstate : e.state = .clocking) (hph : e.ph = .low) :
    remainingOps e =
      .driveHigh e.idx.toNat :: .sample e.idx.toNat :: .waitHalf e.idx.toNat .high :: .next e.idx.toNat ::
        opsFrom (e.idx.toNat + 1) := by
  simp only [remainingOps, hstate, hph]

theorem remainingOps_high (hstate : e.state = .clocking) (hph : e.ph = .high) :
    remainingOps e = .next e.idx.toNat :: opsFrom (e.idx.toNat + 1) := by
  simp only [remainingOps, hstate, hph]

theorem remainingOps_quietWait (hstate : e.state = .quietWait) : remainingOps e = [.respond] := by
  simp only [remainingOps, hstate]

end

section
variable (p : Params) (env : Nat → Lines)

/-- The micro-operations `ms` after one that has come to a `Progress`. -/
def Progress.thenAll (ms : List MicroOp) : Progress → Engine
  | .going left e => performAll p env ms left e
  | .resting e => e
  | .aborted e => e

theorem performAll_cons (m : MicroOp) (ms : List MicroOp) (left : Nat) (e : Engine) :
    performAll p env (m :: ms) left e = (perform p env m left e).thenAll p env ms := by
  rw [performAll]
  cases perform p env m left e <;> rfl

/-- The blocking form from a rest of the sequencer on, with `left` ticks to occur. -/
def resumeBlocking (left : Nat) (e : Engine) : Engine := (blockFor left e).thenAll p env (remainingOps e)

variable (left : Nat) {e : Engine}

theorem resumeBlocking_idle (hstate : e.state = .idle) (hcnt : e.cnt = 0) : resumeBlocking p env left e = e := by
  rw [resumeBlocking, blockFor_done left hcnt, remainingOps_idle hstate]
  rfl

theorem resumeBlocking_zero (hcnt : e.cnt ≠ 0) : resumeBlocking p env 0 e = e := by
  rw [resumeBlocking, blockFor_stop hcnt, Progress.thenAll]

theorem performAll_waitHalf {i : Nat} {ph : Phase} {ms : List MicroOp} (h : remainingOps (waitHalf ph e) = ms) :
    performAll p env (.waitHalf i ph :: ms) left e = resumeBlocking p env left (waitHalf ph e) := by
  rw [performAll_cons, ← h]
  rfl

/-! ### The reactions of the machine in the blocking form -/

/-- `DRIVE_LOW` and the wait after it. -/
theorem performAll_opsFrom (hstate : e.state = .clocking) :
    performAll p env (opsFrom e.idx.toNat) left e = resumeBlocking p env left (driveLow p (env e.now) e) := by
  rw [opsFrom_of_lt e.idx.isLt, performAll_cons, perform]
  obtain ⟨hfault, heq⟩ | ⟨hfault, heq⟩ := driveLow_cases p (env e.now) e
  · rw [heq, hfault, if_neg nofun, Progress.thenAll]
    exact performAll_waitHalf p env left (remainingOps_low hstate rfl)
  · rw [heq, hfault, if_pos rfl, Progress.thenAll, resumeBlocking_idle p env left rfl rfl]

/-- `DRIVE_HIGH`, `SAMPLE` and the wait after them. -/
theorem performAll_low (hstate : e.state = .clocking) (hph : e.ph = .low) :
    performAll p env (remainingOps e) left e = resumeBlocking p env left (driveHighAndSample p (env e.now) e) := by
  rw [remainingOps_low hstate hph, performAll_cons, perform]
  obtain ⟨hdrive, hread, heq⟩ | ⟨hdrive, heq⟩ | ⟨hdrive, hread, heq⟩ := driveHighAndSample_cases p (env e.now) e
  · rw [heq, hdrive, if_neg nofun, Progress.thenAll, performAll_cons, perform, driveClk_high_now, hread, if_neg nofun]
    exact performAll_waitHalf p env left (remainingOps_high hstate rfl)
  · rw [heq, hdrive, if_pos rfl, Progress.thenAll, resumeBlocking_idle p env left rfl rfl]
  · rw [heq, hdrive, if_neg nofun, Progress.thenAll, performAll_cons, perform, driveClk_high_now, hread, if_pos rfl,
      Progress.thenAll, resumeBlocking_idle p env left rfl rfl]

/-- The quiet wait and the response, after channel 15. -/
theorem performAll_waitQuiet :
    performAll p env [.waitQuiet, .respond] left { e with state := .quietWait } =
      resumeBlocking p env left (enterQuiet e) := by
  rw [performAll_cons]
  change (blockFor left { e with state := .quietWait, cnt := e.quiet }).thenAll p env [.respond] = _
  obtain ⟨-, heq⟩ | ⟨hquiet, heq⟩ := enterQuiet_cases e
  · rw [heq]; rfl
  · rw [heq, blockFor_done left hquiet, hquiet, resumeBlocking_idle p env left rfl rfl]
    rfl

/-- `NEXT`: the next cycle or the quiet wait. -/
theorem performAll_high (hstate : e.state = .clocking) (hph : e.ph = .high) :
    performAll p env (remainingOps e) left e = resumeBlocking p env left (nextChannel p (env e.now) e) := by
  rw [remainingOps_high hstate hph, performAll_cons, perform]
  obtain ⟨hidx, heq⟩ | ⟨hidx, heq⟩ := nextChannel_cases p (env e.now) e
  · rw [heq, if_pos hidx, Progress.thenAll, ← toNat_idx_succ hidx]
    exact performAll_opsFrom p env left (e := { e with idx := e.idx + 1 }) hstate
  · have hlast : e.idx.toNat = 15 := congrArg BitVec.toNat hidx
    rw [heq, hlast, if_neg (by decide), Progress.thenAll]
    exact performAll_waitQuiet p env left

/-- The end of a wait. -/
theorem performAll_remainingOps (hbusy : e.state ≠ .idle) (hcnt : e.cnt = 0) :
    performAll p env (remainingOps e) left e = resumeBlocking p env left (waitDone p (env e.now) e) := by
  cases hstate : e.state with
  | idle => exact absurd hstate hbusy
  | clocking =>
    cases hph : e.ph with
    | low => simp only [waitDone, hstate, hph, performAll_low p env left hstate hph]
    | high => simp only [waitDone, hstate, hph, performAll_high p env left hstate hph]
  | quietWait =>
    simp only [waitDone, hstate, remainingOps_quietWait hstate]
    exact (resumeBlocking_idle p env left (e := respondFrame e) rfl hcnt).symm

/-- A tick of the machine is one of the ticks of the blocking form. -/
theorem resumeBlocking_onTick (hbusy : e.state ≠ .idle) (hcnt : e.cnt ≠ 0) :
    resumeBlocking p env (left + 1) e = resumeBlocking p env left (onTick p (env (e.now + 1)) e) := by
  rw [resumeBlocking, blockFor_tick left hcnt]
  by_cases hover : countDown e.cnt = 0
  · rw [onTick_over hbusy hover, blockFor_done left hover, hover]
    exact performAll_remainingOps p env left (e := { e with now := e.now + 1, cnt := 0 }) hbusy rfl
  · rw [onTick_within hbusy hover]
    rfl

/-- The blocking form of a scan from the rest after its first access on. -/
theorem blockingAfter_eq_resumeBlocking (n : Nat) (e : Engine) :
    blockingAfter p env n e = resumeBlocking p env n (startScan p (env e.now) e) := by
  rw [blockingAfter, scanOps_eq_opsFrom]
  exact performAll_opsFrom p env n (e := { e with acc := 0, idx := 0, state := .clocking }) rfl

end

/-! ### Both forms after the same ticks -/

/-- The blocking form, taken up `n` ticks earlier. -/
theorem resumeBlocking_afterTicks {env : Nat → Lines} {e : Engine} (he : PositionInv e) (m : Nat) {n : Nat}
    (hbusy : ∀ i < n, (afterTicks env e i).state ≠ .idle) :
    resumeBlocking Config.params env (m + n) e = resumeBlocking Config.params env m (afterTicks env e n) := by
  induction n generalizing m with
  | zero => rfl
  | succ n ih =>
    have hn := hbusy n (Nat.lt_succ_self n)
    have hbusy' : ∀ i < n, (afterTicks env e i).state ≠ .idle := fun i hi => hbusy i (by omega)
    calc resumeBlocking Config.params env (m + (n + 1)) e
        = resumeBlocking Config.params env (m + 1) (afterTicks env e n) := by rw [← ih _ hbusy']; congr 1; omega
      _ = resumeBlocking Config.params env m (afterTicks env e (n + 1)) := by
        rw [resumeBlocking_onTick _ _ _ hn ((he.afterTicks env n).cnt_ne_zero hn), afterTicks_now, afterTicks]

/-- With no tick to come the blocking form stays where the machine rests. -/
theorem resumeBlocking_of_rest {e : Engine} (p : Params) (env : Nat → Lines) (he : PositionInv e) :
    resumeBlocking p env 0 e = e := by
  by_cases hidle : e.state = .idle
  · exact resumeBlocking_idle p env 0 hidle (he.rest.1 hidle)
  · exact resumeBlocking_zero p env (he.cnt_ne_zero hidle)

/-- In a run with an accepted `SCAN` first, and the engine busy after it up to the last step, the engine is the one
after the ticks. -/
theorem eng_eq_afterTicks_of_busy {k : Nat} {s t : State} {env : Nat → Lines} {w : CmdWord} {es : List Event} {n : Nat}
    (hidle : s.eng.state = .idle) (hconf : s.eng.configured = true) (hdecode : decode w = .scan)
    (hhappened : happened k s = .offer w (env s.eng.now) :: es) (hreset : noReset es = true)
    (hticks : ticksOnly es = tickEvents env s.eng.now n)
    (hbusy : ∀ j u, j < k → runSteps j s = .next u → u.eng.state = .idle → happened j s = [])
    (ht : runSteps k s = .next t) :
    t.eng = afterTicks env (startScan Config.params (env s.eng.now) s.eng) n ∧
      ∀ m < n, (afterTicks env (startScan Config.params (env s.eng.now) s.eng) m).state ≠ .idle := by
  obtain ⟨j, k', u, rfl, hu, hj, rfl⟩ := exists_run_to_first_event hhappened
  have hue : u.eng = startScan Config.params (env s.eng.now) s.eng := by
    rw [runSteps_eng hu, hj]; exact react_accepted_scan hdecode hidle hconf _
  have hbefore : BusyBefore (happened k' u) u.eng := busyBefore_happened fun i v hi hv hvidle => by
    have hnone := hbusy (j + i) v (by omega) ((runSteps_add j i hu).trans hv) hvidle
    rw [happened_add j i hu, hj] at hnone
    cases hnone
  obtain ⟨hfold, hbefore⟩ := hbefore.foldl_eq_ticksOnly hreset
  rw [hticks, ← startScan_now (env s.eng.now), hue] at hfold hbefore
  rw [foldl_tickEvents] at hfold
  rw [busyBefore_tickEvents] at hbefore
  exact ⟨by rw [runSteps_eng ((runSteps_add j k' hu).symm.trans ht), hue, hfold], hbefore⟩

/-- Settles O52: tick by tick the machine takes up the blocking form where it rests, and the ticks still due say how many
there can be. -/
theorem blockingFormAgrees : Obligations.BlockingFormAgrees := by
  intro k s t env w es n hidle hconf hhalf hdecode hhappened hreset hticks hbusy ht
  obtain ⟨hteng, hbusy⟩ := eng_eq_afterTicks_of_busy hidle hconf hdecode hhappened hreset hticks hbusy ht
  have hstart := positionInv_startScan (env s.eng.now) hconf hhalf
  have htotal := ticksLeft_startScan_le (env s.eng.now) (e := s.eng)
  have hinv := hstart.afterTicks env n
  obtain ⟨hdue, hleft⟩ := ticksLeft_afterTicks hstart hbusy
  have hblocking : ∀ m, blockingAfter Config.params env (m + n) s.eng = resumeBlocking Config.params env m t.eng :=
    fun m => by rw [blockingAfter_eq_resumeBlocking, resumeBlocking_afterTicks hstart m hbusy, hteng]
  rw [← hteng] at hinv hleft
  refine ⟨?_, fun htidle => ?_, fun hn => ?_⟩
  · rw [← Nat.zero_add n, hblocking 0, resumeBlocking_of_rest _ _ hinv]
  · rw [blockingScan, ← Nat.sub_add_cancel (hdue.trans htotal), hblocking,
      resumeBlocking_idle _ _ _ htidle (hinv.rest.1 htidle)]
  · by_contra hbusy'
    have hone := hinv.rest.one_le_ticksLeft hbusy'
    have := hleft hbusy'
    omega

end Sys2Proof.Machine

/-! ## A scan keeps its schedule (R106, R110, R134, R176)

First the accesses by their number; then `OnSchedule`, which says for each position where a scan without line fault stands
`n` ticks after its acceptance, and that a tick keeps it. -/

namespace Sys2Proof.Machine

/-! ### The accesses by their number -/

@[simp] theorem accessKind_driveLow (i : Nat) : accessKind (3 * i) = .driveLow := by simp [accessKind]
@[simp] theorem accessKind_driveHigh (i : Nat) : accessKind (3 * i + 1) = .driveHigh := by simp [accessKind]
@[simp] theorem accessKind_read (i : Nat) : accessKind (3 * i + 2) = .read := by simp [accessKind]

@[simp] theorem accessChannel_driveLow (i : Nat) : accessChannel (3 * i) = i := by unfold accessChannel; omega
@[simp] theorem accessChannel_driveHigh (i : Nat) : accessChannel (3 * i + 1) = i := by unfold accessChannel; omega
@[simp] theorem accessChannel_read (i : Nat) : accessChannel (3 * i + 2) = i := by unfold accessChannel; omega

/-- How many half periods after the acceptance access number `m` comes. -/
def halvesBefore (m : Nat) : Nat := 2 * (m / 3) + if m % 3 = 0 then 0 else 1

theorem accessOffset_eq (half m : Nat) : accessOffset half m = halvesBefore m * half := by
  obtain h | h | h : m % 3 = 0 ∨ m % 3 = 1 ∨ m % 3 = 2 := by omega
  all_goals simp [accessOffset, accessKind, halvesBefore, accessChannel, h]

/-- The accesses up to a tick count within half period number `k` are those of the half periods up to it. -/
theorem accessOffset_le_iff {half n k : Nat} (hlow : k * half ≤ n) (hhigh : n < (k + 1) * half) (m : Nat) :
    accessOffset half m ≤ n ↔ halvesBefore m ≤ k := by
  rw [accessOffset_eq]
  constructor
  · intro h
    exact Nat.lt_succ_iff.1 (Nat.lt_of_mul_lt_mul_right (h.trans_lt hhigh))
  · intro h
    exact (Nat.mul_le_mul_right half h).trans hlow

section
variable (env : Nat → Lines) (t₀ half i : Nat)

@[simp] theorem accessOffset_driveLow : accessOffset half (3 * i) = 2 * i * half := by simp [accessOffset]
@[simp] theorem accessOffset_driveHigh : accessOffset half (3 * i + 1) = (2 * i + 1) * half := by simp [accessOffset]
@[simp] theorem accessOffset_read : accessOffset half (3 * i + 2) = (2 * i + 1) * half := by simp [accessOffset]

theorem accessFaults_driveLow :
    accessFaults Config.params env t₀ half (3 * i) = (env (t₀ + 2 * i * half)).errDrive := by
  simp [accessFaults]

theorem accessFaults_driveHigh :
    accessFaults Config.params env t₀ half (3 * i + 1) = (env (t₀ + (2 * i + 1) * half)).errDrive := by
  simp [accessFaults]

theorem accessFaults_read :
    accessFaults Config.params env t₀ half (3 * i + 2) = (env (t₀ + (2 * i + 1) * half)).errSample := by
  simp [accessFaults]

theorem accessEvent_driveLow : accessEvent env t₀ half (3 * i) = ⟨t₀ + 2 * i * half, .clkLow⟩ := by
  simp [accessEvent]

theorem accessEvent_driveHigh : accessEvent env t₀ half (3 * i + 1) = ⟨t₀ + (2 * i + 1) * half, .clkHigh⟩ := by
  simp [accessEvent]

theorem accessEvent_read :
    accessEvent env t₀ half (3 * i + 2) = ⟨t₀ + (2 * i + 1) * half, .sample (sampledLevel env t₀ half i)⟩ := by
  simp [accessEvent]

theorem lineEvents_succ (n : Nat) :
    lineEvents env t₀ half (n + 1) = lineEvents env t₀ half n ++ [accessEvent env t₀ half n] := by
  simp [lineEvents, List.range_succ]

end

/-- The line events up to a tick count are those of the accesses up to it. -/
theorem filter_lineEvents {env : Nat → Lines} {t₀ half n a N : Nat} (ha : a ≤ N)
    (h : ∀ m < N, accessOffset half m ≤ n ↔ m < a) :
    (lineEvents env t₀ half N).filter (fun x => decide (x.tick ≤ t₀ + n)) = lineEvents env t₀ half a := by
  have hfilter : (List.range N).filter (fun m => decide (m < a)) = List.range a := by
    rw [← List.Ico.zero_bot, List.Ico.filter_lt, Nat.min_eq_right ha, List.Ico.zero_bot]
  rw [lineEvents, lineEvents, List.filter_map, ← hfilter]
  refine congrArg _ (List.filter_congr fun m hm => decide_eq_decide.2 ?_)
  rw [← h m (List.mem_range.1 hm)]
  exact Nat.add_le_add_iff_left

/-! ### The accesses a scan has performed -/

/-- `e` is the engine `n` ticks after `e₀` accepted a scan, with the first `a` accesses performed: what they have put into
the trace and into `ACC`. -/
structure Accessed (env : Nat → Lines) (e₀ : Engine) (n a : Nat) (e : Engine) : Prop where
  now : e.now = e₀.now + n
  configured : e.configured = e₀.configured
  half : e.half = e₀.half
  quiet : e.quiet = e₀.quiet
  rsp : e.rsp = e₀.rsp
  trace : e.trace = e₀.trace ++ lineEvents env e₀.now e₀.half.toNat a
  acc : ∀ i < 16, e.acc.getLsbD i =
    (decide (3 * i + 2 < a) && channelActive (sampledLevel env e₀.now e₀.half.toNat i))

section
variable {env : Nat → Lines} {e₀ e : Engine} {n a : Nat}

/-- A tick that performs no access. -/
theorem Accessed.tick (h : Accessed env e₀ n a e) (st : SeqState) (i : BitVec 4) (c : BitVec 48) :
    Accessed env e₀ (n + 1) a { e with now := e.now + 1, state := st, idx := i, cnt := c } :=
  { h with now := congrArg (· + 1) h.now }

/-- The drive low of channel `i` at its tick count. -/
theorem Accessed.driveLow {i : Nat} (h : Accessed env e₀ n (3 * i) e) (hn : n = 2 * i * e₀.half.toNat) :
    Accessed env e₀ n (3 * i + 1) (waitHalf .low (driveClk .low e)) := by
  refine { h with trace := ?_, acc := fun j hj => ?_ }
  · rw [waitHalf_trace, driveClk_low_trace, h.trace, h.now, lineEvents_succ, accessEvent_driveLow, hn,
      List.append_assoc]
  · have hsame : 3 * j + 2 < 3 * i ↔ 3 * j + 2 < 3 * i + 1 := by omega
    simp only [waitHalf_acc, driveClk_low_acc, h.acc j hj, hsame]

/-- The drive high and the read of channel `i` at their tick count. -/
theorem Accessed.driveHighAndSample {i : Nat} (h : Accessed env e₀ n (3 * i + 1) e)
    (hn : n = (2 * i + 1) * e₀.half.toNat) (hidx : e.idx.toNat = i) :
    Accessed env e₀ n (3 * i + 3) (waitHalf .high
      (storeSample (sampledLevel env e₀.now e₀.half.toNat i) (driveClk .high e))) := by
  refine { h with trace := ?_, acc := fun j hj => ?_ }
  · rw [waitHalf_trace, storeSample_trace, driveClk_high_trace, driveClk_high_now, h.trace, h.now,
      lineEvents_succ _ _ _ (3 * i + 2), lineEvents_succ _ _ _ (3 * i + 1), accessEvent_driveHigh, accessEvent_read, hn]
    simp only [List.append_assoc]
  · rw [waitHalf_acc, storeSample_acc, driveClk_high_acc, driveClk_high_idx,
      getLsbD_setFrameBit _ e.idx.isLt, h.acc j hj, hidx]
    split
    · next hji => simp [hji]
    · next hji =>
      have hsame : 3 * j + 2 < 3 * i + 1 ↔ 3 * j + 2 < 3 * i + 3 := by omega
      simp only [hsame]

end

/-! ### Where a scan stands -/

/-- No access up to `n` ticks after `e₀` accepts a scan meets a line fault. -/
def GrantedUpTo (env : Nat → Lines) (e₀ : Engine) (n : Nat) : Prop :=
  ∀ m < 48, accessOffset e₀.half.toNat m ≤ n → accessFaults Config.params env e₀.now e₀.half.toNat m = false

theorem GrantedUpTo.mono {env : Nat → Lines} {e₀ : Engine} {m n : Nat} (h : GrantedUpTo env e₀ n) (hm : m ≤ n) :
    GrantedUpTo env e₀ m :=
  fun i hi hle => h i hi (hle.trans hm)

/-- Where the scan accepted by `e₀` stands after `n` ticks when no access has failed: how far the wait in progress is, and
which accesses have been performed. -/
inductive OnSchedule (env : Nat → Lines) (e₀ : Engine) (n : Nat) : Engine → Prop
  | low {e : Engine} (hstate : e.state = .clocking) (hph : e.ph = .low)
      (hcnt : n + e.cnt.toNat = (2 * e.idx.toNat + 1) * e₀.half.toNat)
      (hdone : Accessed env e₀ n (3 * e.idx.toNat + 1) e) : OnSchedule env e₀ n e
  | high {e : Engine} (hstate : e.state = .clocking) (hph : e.ph = .high)
      (hcnt : n + e.cnt.toNat = (2 * e.idx.toNat + 1 + 1) * e₀.half.toNat)
      (hdone : Accessed env e₀ n (3 * e.idx.toNat + 3) e) : OnSchedule env e₀ n e
  | quiet {e : Engine} (hstate : e.state = .quietWait)
      (hcnt : n + e.cnt.toNat = scanTicks e₀.half.toNat e₀.quiet.toNat)
      (hdone : Accessed env e₀ n 48 e) : OnSchedule env e₀ n e
  /-- The response, with the registers as R122 leaves them. -/
  | ended {e : Engine} (hn : n = scanTicks e₀.half.toNat e₀.quiet.toNat) (hcnt : e.cnt = 0) (hclk : e.clk = .high)
      (hidx : e.idx = 15) (hph : e.ph = .high) (hdone : Accessed env e₀ n 48 e) :
      OnSchedule env e₀ n (respondFrame e)

section
variable {env : Nat → Lines} {e₀ e : Engine} {n : Nat}

/-- A scan is in progress until the last of its ticks. -/
theorem OnSchedule.busy (h : OnSchedule env e₀ n e) (hn : n < scanTicks e₀.half.toNat e₀.quiet.toNat) :
    e.state ≠ .idle := by
  cases h with
  | low hstate | high hstate | quiet hstate => simp [hstate]
  | ended hend => omega

/-- A tick within a wait keeps the schedule. -/
theorem OnSchedule.counts (h : OnSchedule env e₀ n e) (hbusy : e.state ≠ .idle) (hcnt : 2 ≤ e.cnt.toNat) :
    OnSchedule env e₀ (n + 1) { e with now := e.now + 1, cnt := countDown e.cnt } := by
  have hless := countDown_toNat e.cnt
  cases h with
  | low hstate hph hwait hdone => exact .low hstate hph (by rw [← hwait]; simp only; omega) (hdone.tick _ _ _)
  | high hstate hph hwait hdone => exact .high hstate hph (by rw [← hwait]; simp only; omega) (hdone.tick _ _ _)
  | quiet hstate hwait hdone => exact .quiet hstate (by rw [← hwait]; simp only; omega) (hdone.tick _ _ _)
  | ended => exact absurd rfl hbusy

/-- The tick that ends the first wait of a cycle, with both its accesses granted. -/
theorem OnSchedule.of_low_over (hstate : e.state = .clocking) (hph : e.ph = .low) (hcnt : e.cnt.toNat ≤ 1)
    (hwait : n + 1 = (2 * e.idx.toNat + 1) * e₀.half.toNat) (hdone : Accessed env e₀ n (3 * e.idx.toNat + 1) e)
    (hgranted : GrantedUpTo env e₀ (n + 1)) :
    OnSchedule env e₀ (n + 1) (onTick Config.params (env (e₀.now + (n + 1))) e) := by
  have hidx := e.idx.isLt
  have hdrive := hgranted (3 * e.idx.toNat + 1) (by omega) ((accessOffset_driveHigh _ _).trans hwait.symm).le
  have hread := hgranted (3 * e.idx.toNat + 2) (by omega) ((accessOffset_read _ _).trans hwait.symm).le
  have hdata : (env (e₀.now + (n + 1))).data = sampledLevel env e₀.now e₀.half.toNat e.idx.toNat := by
    rw [sampledLevel, hwait]
  rw [accessFaults_driveHigh, ← hwait] at hdrive
  rw [accessFaults_read, ← hwait] at hread
  rw [onTick_low hstate hph hcnt, driveHighAndSample_of_no_fault hdrive hread, hdata]
  refine .high hstate rfl ?_ ((hdone.tick _ _ _).driveHighAndSample hwait rfl)
  rw [waitHalf_cnt_toNat, hwait]
  simp only [storeSample_half, driveClk_high_half, hdone.half, waitHalf_idx, storeSample_idx, driveClk_high_idx]
  ring

/-- The tick that ends the second wait of a cycle before the last, with the next drive granted. -/
theorem OnSchedule.of_high_over (hstate : e.state = .clocking) (hph : e.ph = .high) (hcnt : e.cnt.toNat ≤ 1)
    (hidx : e.idx.toNat < 15) (hwait : n + 1 = (2 * e.idx.toNat + 1 + 1) * e₀.half.toNat)
    (hdone : Accessed env e₀ n (3 * e.idx.toNat + 3) e) (hgranted : GrantedUpTo env e₀ (n + 1)) :
    OnSchedule env e₀ (n + 1) (onTick Config.params (env (e₀.now + (n + 1))) e) := by
  have hdrive := hgranted (3 * (e.idx.toNat + 1)) (by omega) ((accessOffset_driveLow _ _).trans hwait.symm).le
  have hnext : (e.idx + 1).toNat = e.idx.toNat + 1 := toNat_idx_succ hidx
  rw [accessFaults_driveLow, Nat.mul_add_one, ← hwait] at hdrive
  rw [onTick_high_of_lt hstate hph hcnt hidx, driveLow_of_no_fault hdrive]
  refine .low hstate rfl ?_ ?_
  · rw [waitHalf_cnt_toNat, hwait]
    simp only [driveClk_low_half, hdone.half, waitHalf_idx, driveClk_low_idx, hnext]
    ring
  · simp only [waitHalf_idx, driveClk_low_idx, hnext]
    exact (hdone.tick _ _ _).driveLow (i := e.idx.toNat + 1) hwait

/-- The tick that ends the last cycle. -/
theorem OnSchedule.of_high_last (hstate : e.state = .clocking) (hph : e.ph = .high) (hcnt : e.cnt.toNat ≤ 1)
    (hidx : e.idx = 15) (hclk : e.clk = .high) (hwait : n + 1 = 32 * e₀.half.toNat)
    (hdone : Accessed env e₀ n 48 e) : OnSchedule env e₀ (n + 1) (onTick Config.params (env (e₀.now + (n + 1))) e) := by
  rw [onTick_high_last hstate hph hcnt hidx]
  obtain ⟨-, heq⟩ | ⟨hzero, heq⟩ := enterQuiet_cases { e with now := e.now + 1, cnt := 0 }
  · rw [heq]
    refine .quiet rfl ?_ (hdone.tick _ _ _)
    rw [hwait, ← hdone.quiet]
    rfl
  · have hzero : e₀.quiet = 0 := hdone.quiet.symm.trans hzero
    rw [heq]
    refine .ended ?_ rfl hclk hidx hph (hdone.tick _ _ _)
    rw [hwait, hzero]
    rfl

/-- The tick that ends a wait keeps the schedule when the accesses due at it are granted. -/
theorem OnSchedule.ends (h : OnSchedule env e₀ n e) (hinv : PositionInv e) (hbusy : e.state ≠ .idle)
    (hcnt : e.cnt.toNat = 1) (hgranted : GrantedUpTo env e₀ (n + 1)) :
    OnSchedule env e₀ (n + 1) (onTick Config.params (env (e₀.now + (n + 1))) e) := by
  obtain ⟨-, hhigh, hquiet⟩ := hinv.clock
  cases h with
  | low hstate hph hwait hdone => exact .of_low_over hstate hph hcnt.le (hcnt ▸ hwait) hdone hgranted
  | high hstate hph hwait hdone =>
    rw [hcnt] at hwait
    obtain hlt | hlast : e.idx.toNat < 15 ∨ e.idx.toNat = 15 := by omega
    · exact .of_high_over hstate hph hcnt.le hlt hwait hdone hgranted
    · rw [hlast] at hwait hdone
      exact .of_high_last hstate hph hcnt.le (BitVec.eq_of_toNat_eq hlast) (hhigh hstate hph) hwait hdone
  | quiet hstate hwait hdone =>
    obtain ⟨hclk, hidx, hph⟩ := hquiet hstate
    rw [onTick_quietWait hstate hcnt.le]
    exact .ended (hcnt ▸ hwait) rfl hclk hidx hph (hdone.tick _ _ _)
  | ended => exact absurd rfl hbusy

/-- A tick keeps the schedule when the accesses due at it are granted. -/
theorem OnSchedule.onTick (h : OnSchedule env e₀ n e) (hinv : PositionInv e) (hbusy : e.state ≠ .idle)
    (hgranted : GrantedUpTo env e₀ (n + 1)) :
    OnSchedule env e₀ (n + 1) (onTick Config.params (env (e₀.now + (n + 1))) e) := by
  obtain ⟨hone, -⟩ := hinv.rest.2 hbusy
  obtain hcnt | hcnt : 2 ≤ e.cnt.toNat ∨ e.cnt.toNat = 1 := by omega
  · rw [onTick_counts hbusy hcnt]
    exact h.counts hbusy hcnt
  · exact h.ends hinv hbusy hcnt hgranted

/-- Before its end a scan has performed the accesses up to the tick count, and from `32 HALF` on it is in the quiet
wait. -/
theorem OnSchedule.before_end (h : OnSchedule env e₀ n e) (hinv : PositionInv e) (hbusy : e.state ≠ .idle) :
    (∃ a ≤ 48, Accessed env e₀ n a e ∧ ∀ m < 48, accessOffset e₀.half.toNat m ≤ n ↔ m < a) ∧
      (32 * e₀.half.toNat ≤ n →
        e.state = .quietWait ∧ e.cnt.toNat + n = scanTicks e₀.half.toNat e₀.quiet.toNat) := by
  have hidx := e.idx.isLt
  obtain ⟨hone, -⟩ := hinv.rest.2 hbusy
  obtain ⟨hhalf, hquiet⟩ := hinv.wait
  cases h with
  | low hstate hph hwait hdone =>
    have hhalf := hdone.half ▸ hhalf hstate
    have hlast := Nat.mul_le_mul_right e₀.half.toNat (show 2 * e.idx.toNat + 1 ≤ 32 by omega)
    have hprev := Nat.add_one_mul (2 * e.idx.toNat) e₀.half.toNat
    refine ⟨⟨_, by omega, hdone, fun m _ => ?_⟩, by omega⟩
    rw [accessOffset_le_iff (k := 2 * e.idx.toNat) (by omega) (by omega), halvesBefore]
    split <;> omega
  | high hstate hph hwait hdone =>
    have hhalf := hdone.half ▸ hhalf hstate
    have hlast := Nat.mul_le_mul_right e₀.half.toNat (show 2 * e.idx.toNat + 1 + 1 ≤ 32 by omega)
    have hprev := Nat.add_one_mul (2 * e.idx.toNat + 1) e₀.half.toNat
    refine ⟨⟨_, by omega, hdone, fun m _ => ?_⟩, by omega⟩
    rw [accessOffset_le_iff (k := 2 * e.idx.toNat + 1) (by omega) (by omega), halvesBefore]
    split <;> omega
  | quiet hstate hwait hdone =>
    have hquiet := hdone.quiet ▸ hquiet hstate
    refine ⟨⟨48, le_rfl, hdone, fun m hm => iff_of_true ?_ hm⟩, fun _ => ⟨hstate, by omega⟩⟩
    have hlast := Nat.mul_le_mul_right e₀.half.toNat
      (show halvesBefore m ≤ 32 by unfold halvesBefore; split <;> omega)
    rw [accessOffset_eq]
    simp only [scanTicks] at hwait
    omega
  | ended => exact absurd rfl hbusy

/-- At its last tick a scan has responded. -/
theorem OnSchedule.at_end (h : OnSchedule env e₀ n e) (hinv : PositionInv e)
    (hn : n = scanTicks e₀.half.toNat e₀.quiet.toNat) :
    ∃ x, e = respondFrame x ∧ x.cnt = 0 ∧ x.clk = .high ∧ x.idx = 15 ∧ x.ph = .high ∧ Accessed env e₀ n 48 x := by
  by_cases hidle : e.state = .idle
  · cases h with
    | low hstate | high hstate | quiet hstate => simp [hstate] at hidle
    | ended _ hcnt hclk hidx hph hdone => exact ⟨_, rfl, hcnt, hclk, hidx, hph, hdone⟩
  · obtain ⟨hone, -⟩ := hinv.rest.2 hidle
    obtain ⟨-, hcnt⟩ := (h.before_end hinv hidle).2 (by rw [hn, scanTicks]; omega)
    omega

end

/-- A granted `SCAN` begins on schedule. -/
theorem onSchedule_startScan {env : Nat → Lines} {e₀ : Engine} (hgranted : GrantedUpTo env e₀ 0) :
    OnSchedule env e₀ 0 (startScan Config.params (env e₀.now) e₀) := by
  have hdrive := hgranted (3 * 0) (by decide) (by rw [accessOffset_driveLow]; simp)
  rw [accessFaults_driveLow, Nat.mul_zero, Nat.zero_mul, Nat.add_zero] at hdrive
  have hnone : Accessed env e₀ 0 (3 * 0) { e₀ with acc := 0, idx := 0, state := .clocking } :=
    ⟨rfl, rfl, rfl, rfl, rfl, by simp [lineEvents], by simp⟩
  rw [startScan, driveLow_of_no_fault hdrive]
  exact .low rfl rfl (by rw [waitHalf_cnt_toNat]; simp) (hnone.driveLow (by simp))

/-- As long as no access fails a scan is on schedule, up to its end. -/
theorem onSchedule_afterTicks {env : Nat → Lines} {e₀ : Engine} (hconf : e₀.configured = true)
    (hhalf : 1 ≤ e₀.half.toNat) {n : Nat} (hn : n ≤ scanTicks e₀.half.toNat e₀.quiet.toNat)
    (hgranted : GrantedUpTo env e₀ n) :
    OnSchedule env e₀ n (afterTicks env (startScan Config.params (env e₀.now) e₀) n) := by
  induction n with
  | zero => exact onSchedule_startScan hgranted
  | succ n ih =>
    have hsched := ih (by omega) (hgranted.mono (Nat.le_succ n))
    have hinv := (positionInv_startScan (env e₀.now) hconf hhalf).afterTicks env n
    rw [afterTicks, startScan_now, Nat.add_assoc]
    exact hsched.onTick hinv (hsched.busy hn) hgranted

/-! ### The ticks among the events of a scan -/

theorem ticksOnly_append (xs ys : List Event) : ticksOnly (xs ++ ys) = ticksOnly xs ++ ticksOnly ys := by
  induction xs with
  | nil => rfl
  | cons x xs ih => cases x <;> simp [ticksOnly, ih]

theorem BusyBefore.busy_of_end {es : List Event} {e : Engine} (h : BusyBefore es e)
    (hend : (es.foldl react e).state ≠ .idle) : e.state ≠ .idle := by
  cases es with
  | nil => exact hend
  | cons => exact h.1

/-- A scan that goes on through the ticks among the events goes on through all of them. -/
theorem BusyBefore.of_ticksOnly {es : List Event} {e : Engine} (h : BusyBefore (ticksOnly es) e)
    (hreset : noReset es = true) (hend : ((ticksOnly es).foldl react e).state ≠ .idle) : BusyBefore es e := by
  induction es generalizing e with
  | nil => trivial
  | cons ev es ih =>
    cases ev with
    | reset => cases hreset
    | tick l => exact ⟨h.1, ih h.2 hreset hend⟩
    | offer w l =>
      have hbusy := h.busy_of_end hend
      refine ⟨hbusy, ?_⟩
      rw [react_offer_of_busy hbusy]
      exact ih h hreset hend

/-- A scan that goes on up to the last tick among the events, where these end, goes on through all but it. -/
theorem BusyBefore.of_endsInTick {es : List Event} {e : Engine} (h : BusyBefore (ticksOnly es) e)
    (hreset : noReset es = true) (hends : endsInTick es = true) : BusyBefore es e := by
  obtain rfl | ⟨xs, ev, rfl⟩ := es.eq_nil_or_concat'
  · trivial
  · cases ev with
    | reset | offer => simp [endsInTick] at hends
    | tick l =>
      rw [noReset_iff, List.mem_append, not_or, ← noReset_iff] at hreset
      rw [ticksOnly_append, busyBefore_append] at h
      obtain ⟨hbefore, hlast, -⟩ := h
      have hxs := hbefore.of_ticksOnly hreset.1 hlast
      refine busyBefore_append.2 ⟨hxs, ?_, trivial⟩
      rw [(hxs.foldl_eq_ticksOnly hreset.1).1]
      exact hlast

/-- With an accepted `SCAN` first, and a scan that goes on until its last tick, after which nothing comes if it ends
there, the engine is the one after the ticks. -/
theorem eng_eq_afterTicks {k : Nat} {s t : State} {env : Nat → Lines} {w : CmdWord} {es : List Event} {n : Nat}
    (hidle : s.eng.state = .idle) (hconf : s.eng.configured = true) (hdecode : decode w = .scan)
    (hhappened : happened k s = .offer w (env s.eng.now) :: es) (hreset : noReset es = true)
    (hticks : ticksOnly es = tickEvents env s.eng.now n) (ht : runSteps k s = .next t)
    (hbusy : ∀ m < n, (afterTicks env (startScan Config.params (env s.eng.now) s.eng) m).state ≠ .idle)
    (hend : (afterTicks env (startScan Config.params (env s.eng.now) s.eng) n).state ≠ .idle ∨ endsInTick es = true) :
    t.eng = afterTicks env (startScan Config.params (env s.eng.now) s.eng) n := by
  rw [← startScan_now (env s.eng.now)] at hticks
  rw [← busyBefore_tickEvents, ← hticks] at hbusy
  rw [← foldl_tickEvents, ← hticks] at hend ⊢
  have hbefore := hend.elim (hbusy.of_ticksOnly hreset) (hbusy.of_endsInTick hreset)
  rw [runSteps_eng ht, hhappened, List.foldl_cons, react_accepted_scan hdecode hidle hconf]
  exact (hbefore.foldl_eq_ticksOnly hreset).1

/-! ### The frame (R101, R110) -/

/-- A frame with the bits of the channels that were low is the inverse of one with the bits of those that were high. -/
theorem frame_eq_inverse {acc levels : Frame} {level : Nat → Level}
    (hacc : ∀ i < 16, acc.getLsbD i = true ↔ level i = .low)
    (hlevels : ∀ i < 16, levels.getLsbD i = true ↔ level i = .high) : acc = 0xFFFF ^^^ levels := by
  refine BitVec.eq_of_getLsbD_eq fun i hi => ?_
  rw [show (0xFFFF : Frame) = BitVec.allOnes 16 from rfl, BitVec.allOnes_xor, BitVec.getLsbD_not, decide_eq_true hi,
    Bool.true_and, Bool.eq_iff_iff, hacc i hi, Bool.not_eq_true', ← Bool.not_eq_true, hlevels i hi]
  cases level i <;> decide

/-- Settles O51: the scan is on schedule, and its position says what has happened. -/
theorem scanKeepsItsSchedule : Obligations.ScanKeepsItsSchedule := by
  intro k s env w es n hidle hconf hhalf hdecode hhappened hreset hticks hgranted
  obtain ⟨t, ht⟩ := exists_runSteps_eq_next k s
  have hsched : ∀ m ≤ n, m ≤ scanTicks s.eng.half.toNat s.eng.quiet.toNat →
      OnSchedule env s.eng m (afterTicks env (startScan Config.params (env s.eng.now) s.eng) m) :=
    fun m hm hend => onSchedule_afterTicks hconf hhalf hend (GrantedUpTo.mono hgranted hm)
  have hinv := (positionInv_startScan (env s.eng.now) hconf hhalf).afterTicks env n
  refine ⟨t, ht, fun hn => ?_, fun hn hends => ?_⟩
  · have hbusy := (hsched n le_rfl hn.le).busy hn
    have hteng := eng_eq_afterTicks hidle hconf hdecode hhappened hreset hticks ht
      (fun m hm => (hsched m hm.le (hm.trans hn).le).busy (hm.trans hn)) (.inl hbusy)
    obtain ⟨⟨a, ha, hdone, hdue⟩, hquiet⟩ := (hsched n le_rfl hn.le).before_end hinv hbusy
    rw [hteng, filter_lineEvents ha hdue]
    exact ⟨by simpa [Machine.busy] using hbusy, hdone.now, hdone.rsp, hdone.trace, hquiet, hdone.half, hdone.quiet,
      hdone.configured.trans hconf⟩
  · have hteng := eng_eq_afterTicks hidle hconf hdecode hhappened hreset hticks ht
      (fun m hm => (hsched m hm.le (hm.trans_eq hn).le).busy (hm.trans_eq hn)) (.inr hends)
    obtain ⟨x, hx, hcnt, hclk, hidx, hph, hdone⟩ := (hsched n le_rfl hn.le).at_end hinv hn
    have hacc : ∀ i < 16, x.acc.getLsbD i = true ↔ sampledLevel env s.eng.now s.eng.half.toNat i = .low := by
      intro i hi
      rw [hdone.acc i hi, decide_eq_true (by omega), Bool.true_and, channelActive_eq_true]
    rw [hteng, hx]
    refine ⟨rfl, hdone.now.trans (congrArg _ hn), ?_, frameResponse_eq_setWidth x.acc, hacc,
      fun levels hlevels => frame_eq_inverse hacc hlevels, hclk, hidx, hph, hcnt, hdone.half, hdone.quiet,
      hdone.configured.trans hconf⟩
    rw [respondFrame_trace, hdone.trace, respondFrame_now, respondFrame_rsp]

end Sys2Proof.Machine

/-! ## The quiet wait and the response (R119 to R124) -/

namespace Sys2Proof.Machine

/-! ### The response at the end of the quiet wait (R120, R122) -/

/-- `RESPOND` in the registers it writes: the frame zero-extended, and `Idle`. -/
theorem respondFrame_eq (e : Engine) :
    respondFrame e = { e with
      state := .idle
      rsp := e.acc.setWidth 32
      trace := e.trace ++ [⟨e.now, .rsp (e.acc.setWidth 32)⟩] } := by
  rw [← frameResponse_eq_setWidth]
  rfl

/-- A quiet wait of no ticks is over at once. -/
theorem onTick_skips_quiet {l : Lines} {e : Engine} (hstate : e.state = .clocking) (hph : e.ph = .high)
    (hcnt : e.cnt.toNat ≤ 1) (hidx : e.idx = 15) (hquiet : e.quiet = 0) :
    onTick Config.params l e = respondFrame { e with now := e.now + 1, state := .quietWait, cnt := 0 } :=
  (onTick_high_last hstate hph hcnt hidx).trans (if_pos hquiet)

theorem onTick_enters_quiet {l : Lines} {e : Engine} (hstate : e.state = .clocking) (hph : e.ph = .high)
    (hcnt : e.cnt.toNat ≤ 1) (hidx : e.idx = 15) (hquiet : e.quiet ≠ 0) :
    onTick Config.params l e = { e with now := e.now + 1, state := .quietWait, cnt := e.quiet } :=
  (onTick_high_last hstate hph hcnt hidx).trans (if_neg hquiet)

/-- Settles O32: after channel 15 comes a quiet wait of no ticks, and the response. -/
theorem zeroQuietWaitRespondsAtOnce : Obligations.ZeroQuietWaitRespondsAtOnce := by
  intro s l es hpending hstate hph hcnt hidx hquiet
  rw [step_of_tick hpending, onTick_skips_quiet hstate hph (by simp [hcnt]) hidx hquiet, respondFrame_eq]

/-- Settles O33: the wait that is over is the quiet wait. -/
theorem quietWaitEndsInResponse : Obligations.QuietWaitEndsInResponse := by
  intro s l es hpending hstate hcnt
  rw [step_of_tick hpending, onTick_quietWait hstate (by simp [hcnt]), respondFrame_eq]

/-! ### From the last sample to the response (R121, R124) -/

/-- The scan of `e` has its last sample behind it and its response still before it, and nothing has been visible since
the engine was `e₀`. -/
structure AwaitsResponse (e₀ e : Engine) : Prop where
  position : e.state = .quietWait ∨ (e.state = .clocking ∧ e.ph = .high ∧ e.idx = 15)
  waiting : 1 ≤ e.cnt.toNat
  clk : e.clk = .high
  trace : e.trace = e₀.trace
  rsp : e.rsp = e₀.rsp
  acc : e.acc = e₀.acc

theorem ticksLeft_quietWait {e : Engine} (hstate : e.state = .quietWait) : ticksLeft e = e.cnt.toNat := by
  simp only [ticksLeft, hstate]

theorem ticksLeft_high_last {e : Engine} (hstate : e.state = .clocking) (hph : e.ph = .high) (hidx : e.idx = 15) :
    ticksLeft e = e.cnt.toNat + e.quiet.toNat := by
  simp [ticksLeft, hstate, hph, hidx]

section
variable {e₀ e : Engine}

theorem AwaitsResponse.not_idle (h : AwaitsResponse e₀ e) : e.state ≠ .idle := by
  obtain hstate | ⟨hstate, -, -⟩ := h.position <;> simp [hstate]

/-- A wait that is not over counts one of the ticks due. -/
theorem AwaitsResponse.counts (h : AwaitsResponse e₀ e) (hcnt : 2 ≤ e.cnt.toNat) :
    AwaitsResponse e₀ { e with now := e.now + 1, cnt := countDown e.cnt } ∧
      ticksLeft { e with now := e.now + 1, cnt := countDown e.cnt } + 1 = ticksLeft e := by
  have hless := countDown_toNat e.cnt
  refine ⟨⟨h.position, by simp only; omega, h.clk, h.trace, h.rsp, h.acc⟩, ?_⟩
  obtain hstate | ⟨hstate, hph, hidx⟩ := h.position
  · simp only [ticksLeft_quietWait, hstate]
    omega
  · simp only [ticksLeft_high_last, hstate, hph, hidx]
    omega

/-- A tick that is not the last one due shows nothing: it counts, or it ends the last half-period wait where a quiet wait
follows. -/
theorem AwaitsResponse.onTick (h : AwaitsResponse e₀ e) (hdue : 1 < ticksLeft e) (l : Lines) :
    AwaitsResponse e₀ (onTick Config.params l e) ∧ ticksLeft (onTick Config.params l e) + 1 = ticksLeft e := by
  have hone := h.waiting
  obtain hcnt | hcnt : 2 ≤ e.cnt.toNat ∨ e.cnt.toNat = 1 := by omega
  · rw [onTick_counts h.not_idle hcnt]
    exact h.counts hcnt
  · obtain hstate | ⟨hstate, hph, hidx⟩ := h.position
    · rw [ticksLeft_quietWait hstate] at hdue
      omega
    · rw [ticksLeft_high_last hstate hph hidx] at hdue ⊢
      have hquiet : 1 ≤ e.quiet.toNat := by omega
      rw [onTick_enters_quiet hstate hph hcnt.le hidx (by bv_omega), ticksLeft_quietWait rfl]
      exact ⟨⟨.inl rfl, hquiet, h.clk, h.trace, h.rsp, h.acc⟩, by simp only; omega⟩

/-- Fewer ticks than the ticks due, whatever is offered among them, leave the response still to come. -/
theorem AwaitsResponse.foldl_react {es : List Event} (h : AwaitsResponse e₀ e) (hreset : noReset es = true)
    (hdue : tickCount es < ticksLeft e) :
    AwaitsResponse e₀ (es.foldl react e) ∧ ticksLeft (es.foldl react e) + tickCount es = ticksLeft e := by
  induction es generalizing e with
  | nil => exact ⟨h, rfl⟩
  | cons ev es ih =>
    cases ev with
    | reset => cases hreset
    | tick l =>
      simp only [tickCount] at hdue ⊢
      obtain ⟨htick, hless⟩ := h.onTick (by omega) l
      obtain ⟨hend, hleft⟩ := ih htick hreset (by omega)
      exact ⟨hend, by simp only [List.foldl_cons, react]; omega⟩
    | offer w l =>
      rw [List.foldl_cons, react_offer_of_busy h.not_idle]
      exact ih h hreset hdue

theorem awaitsResponse_self (hrest : RestInv e) (hclock : ClockInv e)
    (hposition : e.state = .quietWait ∨ (e.state = .clocking ∧ e.ph = .high ∧ e.idx = 15)) : AwaitsResponse e e := by
  obtain ⟨-, hwait⟩ := hrest
  obtain ⟨-, hhigh, hquiet⟩ := hclock
  obtain hstate | ⟨hstate, hph, hidx⟩ := hposition
  · exact ⟨.inl hstate, (hwait (by simp [hstate])).1, (hquiet hstate).1, rfl, rfl, rfl⟩
  · exact ⟨.inr ⟨hstate, hph, hidx⟩, (hwait (by simp [hstate])).1, hhigh hstate hph, rfl, rfl, rfl⟩

end

/-- Settles O54: the engine of the run is the one after its events, of which the offers do nothing and each tick is one of
those due. -/
theorem quietIsNeverShortened : Obligations.QuietIsNeverShortened := by
  intro k s _ hrest hclock hposition hreset hdue
  obtain ⟨t, ht⟩ := exists_runSteps_eq_next k s
  obtain ⟨hend, hleft⟩ := (awaitsResponse_self hrest hclock hposition).foldl_react hreset hdue
  rw [← runSteps_eng ht] at hend hleft
  exact ⟨t, ht, hend.trace, hend.clk, hend.rsp, hend.acc, by simpa [busy] using hend.not_idle, hleft⟩

end Sys2Proof.Machine

/-! ## Errors at the line accesses (R133 to R138) -/

namespace Sys2Proof.Machine

/-! ### Without the `line_err` input (R8, R133) -/

section
variable {p : Params} (hp : p.hasLineErr = false)
include hp

theorem lineFault_of_no_input (b : Bool) : lineFault p b = false := by simp [lineFault, hp]

theorem driveLow_of_no_input (l : Lines) (e : Engine) : driveLow p l e = waitHalf .low (driveClk .low e) :=
  if_neg (by simp [lineFault_of_no_input hp])

theorem driveHighAndSample_of_no_input (l : Lines) (e : Engine) :
    driveHighAndSample p l e = waitHalf .high (storeSample l.data (driveClk .high e)) :=
  (if_neg (by simp [lineFault_of_no_input hp])).trans (if_neg (by simp [lineFault_of_no_input hp]))

theorem nextChannel_of_no_input (l l' : Lines) (e : Engine) : nextChannel p l e = nextChannel p l' e := by
  simp only [nextChannel, driveLow_of_no_input hp]

/-- What follows a wait reads nothing of the lines but the data level. -/
theorem waitDone_of_no_input {l l' : Lines} (hdata : l.data = l'.data) (e : Engine) :
    waitDone p l e = waitDone p l' e := by
  unfold waitDone
  split
  · rw [driveHighAndSample_of_no_input hp, driveHighAndSample_of_no_input hp, hdata]
  · exact nextChannel_of_no_input hp l l' e
  · rfl
  · rfl

theorem onTick_of_no_input {l l' : Lines} (hdata : l.data = l'.data) (e : Engine) : onTick p l e = onTick p l' e := by
  rw [onTick, onTick, waitDone_of_no_input hp hdata]

theorem startScan_of_no_input (l l' : Lines) (e : Engine) : startScan p l e = startScan p l' e := by
  simp only [startScan, driveLow_of_no_input hp]

end

/-- Settles O36: no access is refused, so the reactions read only the data level. -/
theorem noLineDriverNoLineFault : Obligations.NoLineDriverNoLineFault :=
  fun _ _ e hp => ⟨onTick_of_no_input hp (by rfl) e, startScan_of_no_input hp _ _ e⟩

/-! ### The accesses when there is a line fault (R134, R135, R137) -/

theorem driveLow_of_fault {l : Lines} (hdrive : l.errDrive = true) (e : Engine) :
    driveLow Config.params l e = raise .lineError e :=
  if_pos (by simp [hdrive])

theorem driveHighAndSample_of_drive_fault {l : Lines} (hdrive : l.errDrive = true) (e : Engine) :
    driveHighAndSample Config.params l e = raise .lineError e :=
  if_pos (by simp [hdrive])

theorem driveHighAndSample_of_read_fault {l : Lines} (hdrive : l.errDrive = false) (hread : l.errSample = true)
    (e : Engine) : driveHighAndSample Config.params l e = raise .lineError (driveClk .high e) :=
  (if_neg (by simp [hdrive])).trans (if_pos (by simp [hread]))

/-- `LineError` in the registers it writes (R135). -/
theorem raise_line_eq (e : Engine) :
    raise .lineError e = { e with
      cnt := 0
      state := .idle
      rsp := 0x00020000
      trace := e.trace ++ [⟨e.now, .rsp 0x00020000⟩] } := rfl

/-- Settles O26: the accepted `SCAN` is refused its first access. -/
theorem scanAbortsAtFirstDrive : Obligations.ScanAbortsAtFirstDrive := by
  intro s hstate hconf hdrive
  have haccept : accepts s.eng .scan = true := (accepts_scan _).2 ⟨hstate, hconf⟩
  rw [exec, execScan, if_pos haccept, startScan, driveLow_of_fault hdrive, raise_line_eq]

/-- Settles O34: the wait that is over tells the access that is refused. -/
theorem lineFaultInTickAborts : Obligations.LineFaultInTickAborts := by
  refine ⟨fun s l es hpending hstate hph hcnt hdrive => ?_, fun s l es hpending hstate hph hcnt hdrive hread => ?_,
    fun s l es hpending hstate hph hcnt hidx hdrive => ⟨_, step_of_tick hpending, ?_⟩⟩
  · rw [step_of_tick hpending, onTick_low hstate hph (by simp [hcnt]), driveHighAndSample_of_drive_fault hdrive,
      raise_line_eq]
  · rw [step_of_tick hpending, onTick_low hstate hph (by simp [hcnt]),
      driveHighAndSample_of_read_fault hdrive hread, raise_line_eq, driveClk_high_trace, List.append_assoc]
    rfl
  · rw [onTick_high_of_lt hstate hph (by simp [hcnt]) hidx, driveLow_of_fault hdrive, raise_line_eq]
    exact ⟨rfl, toNat_idx_succ hidx⟩

end Sys2Proof.Machine

/-! ## The environment goes on (R129, R141, R145) -/

namespace Sys2Proof.Machine

/-- Settles O10: each kind of event has its reaction, and both instructions their meaning. -/
theorem everyStepAnswersNext : Obligations.EveryStepAnswersNext := exists_step_eq_next

/-- A step at an event takes it away and leaves the listed instants. -/
theorem exists_step_of_event {s : State} {ev : Event} {es : List Event} (h : s.pending = ev :: es) :
    ∃ t, step s = .next t ∧ t.pending = es ∧ t.inputs = s.inputs := by
  obtain ⟨t, ht⟩ := exists_step_eq_next s
  refine ⟨t, ht, ?_⟩
  obtain ⟨hp, rfl⟩ | ⟨es', hp, rfl⟩ | ⟨l, es', hp, rfl⟩ | ⟨w, l, es', hp, -, -, rfl⟩ |
    ⟨w, l, es', a, b, c, hp, -, -, rfl⟩ | ⟨w, l, es', hp, -, rfl⟩ := step_cases ht
  all_goals cases h.symm.trans hp
  all_goals exact ⟨rfl, rfl⟩

/-- As many steps as there are events pending process these events. -/
theorem exists_run_of_pending {s : State} {es : List Event} (h : s.pending = es) :
    ∃ t, runSteps es.length s = .next t ∧ happened es.length s = es ∧ t.pending = [] ∧ t.inputs = s.inputs := by
  induction es generalizing s with
  | nil => exact ⟨s, rfl, rfl, h, rfl⟩
  | cons ev es ih =>
    obtain ⟨u, hu, hup, hui⟩ := exists_step_of_event h
    obtain ⟨t, ht, hevents, htp, hti⟩ := ih hup
    refine ⟨t, (runSteps_succ _ hu).trans ht, ?_, htp, hti.trans hui⟩
    rw [List.length_cons, happened_succ _ hu, hevents, h]
    rfl

/-- A listed instant is presented in one step, and its events take one step each. -/
theorem exists_run_of_instant {s : State} {i : Instant} {is : List Instant} (hp : s.pending = [])
    (hi : s.inputs = i :: is) :
    ∃ t, runSteps ((eventsOf i).length + 1) s = .next t ∧ happened ((eventsOf i).length + 1) s = eventsOf i ∧
      t.pending = [] ∧ t.inputs = is := by
  have hpresent : presentInstant s = { beginInstant i s with inputs := is } := by simp only [presentInstant, hi]
  have hstep := hpresent ▸ step_of_no_event hp
  obtain ⟨t, ht, hevents, htp, hti⟩ := exists_run_of_pending (s := { beginInstant i s with inputs := is }) rfl
  exact ⟨t, (runSteps_succ _ hstep).trans ht, by rw [happened_succ _ hstep, hp]; exact hevents, htp, hti⟩

theorem stepsFor_cons (i : Instant) (is : List Instant) :
    stepsFor (i :: is) = (eventsOf i).length + 1 + stepsFor is := by
  simp only [stepsFor, List.length_cons, List.flatMap_cons, List.length_append]
  omega

/-- Listed instants happen one after another, each with its events in order. -/
theorem exists_run_of_instants {s : State} {is rest : List Instant} (hp : s.pending = [])
    (hi : s.inputs = is ++ rest) :
    ∃ t, runSteps (stepsFor is) s = .next t ∧ happened (stepsFor is) s = is.flatMap eventsOf ∧ t.pending = [] ∧
      t.inputs = rest := by
  induction is generalizing s with
  | nil => exact ⟨s, rfl, rfl, hp, hi⟩
  | cons i is ih =>
    obtain ⟨u, hu, hfirst, hup, hui⟩ := exists_run_of_instant hp hi
    obtain ⟨t, ht, hothers, htp, hti⟩ := ih hup hui
    rw [stepsFor_cons, runSteps_add _ _ hu, happened_add _ _ hu, hfirst, hothers]
    exact ⟨t, ht, rfl, htp, hti⟩

/-- Settles O59: the listed instants by induction on their list; the gaps between the ticks of the free ones all end. -/
theorem environmentKeepsMoving : Obligations.EnvironmentKeepsMoving :=
  ⟨fun _ _ _ hp hi => exists_run_of_instants hp hi, ticksForever⟩

end Sys2Proof.Machine

/-! ## The scan that a line fault ends (R134, R135, R136, R176)

Up to the first line fault a scan is on schedule; the tick count of the failing access tells the position in which the
scan meets it, and with that the accesses performed before and the level of the clock line. -/

namespace Sys2Proof.Machine

/-! ### The clock line after a number of accesses (R21, R111) -/

section
variable (env : Nat → Lines) (t₀ half : Nat) (l : Level)

theorem lineLevel_lineEvents_driveLow (i : Nat) : lineLevel l (lineEvents env t₀ half (3 * i + 1)) = .low := by
  rw [lineEvents_succ, accessEvent_driveLow, lineLevel_append]
  rfl

theorem lineLevel_lineEvents_driveHigh (i : Nat) : lineLevel l (lineEvents env t₀ half (3 * i + 2)) = .high := by
  rw [lineEvents_succ, accessEvent_driveHigh, lineLevel_append]
  rfl

theorem lineLevel_lineEvents_read (i : Nat) : lineLevel l (lineEvents env t₀ half (3 * i + 3)) = .high := by
  rw [lineEvents_succ, accessEvent_read, lineLevel_append, lineLevel_lineEvents_driveHigh]
  rfl

end

/-! ### The accesses before a tick count -/

theorem halvesBefore_mono {a m : Nat} (h : a ≤ m) : halvesBefore a ≤ halvesBefore m := by
  unfold halvesBefore
  split <;> split <;> omega

theorem halvesBefore_le {a : Nat} (h : a < 48) : halvesBefore a ≤ 31 := by
  unfold halvesBefore
  split <;> omega

/-- The accesses come in their order. -/
theorem accessOffset_mono (half : Nat) {a m : Nat} (h : a ≤ m) : accessOffset half a ≤ accessOffset half m := by
  rw [accessOffset_eq, accessOffset_eq]
  exact Nat.mul_le_mul_right half (halvesBefore_mono h)

/-- Only the first access comes at the acceptance itself. -/
theorem eq_zero_of_accessOffset_eq_zero {half a : Nat} (hhalf : 1 ≤ half) (h : accessOffset half a = 0) : a = 0 := by
  rw [accessOffset_eq] at h
  have hnone : halvesBefore a = 0 := (Nat.mul_eq_zero.1 h).resolve_right (by omega)
  unfold halvesBefore at hnone
  split at hnone <;> omega

/-- Every access comes before the end of the last cycle. -/
theorem accessOffset_le_scanTicks {a : Nat} (h : a < 48) (half quiet : Nat) :
    accessOffset half a ≤ scanTicks half quiet := by
  rw [accessOffset_eq, scanTicks]
  have := Nat.mul_le_mul_right half (halvesBefore_le h)
  omega

/-- When the accesses before access number `a` are granted, none fails before its tick count. -/
theorem grantedUpTo_of_lt {env : Nat → Lines} {e₀ : Engine} {a n : Nat}
    (hgranted : ∀ m < a, accessFaults Config.params env e₀.now e₀.half.toNat m = false)
    (hn : n < accessOffset e₀.half.toNat a) : GrantedUpTo env e₀ n := by
  intro m _ hm
  refine hgranted m ?_
  by_contra hle
  have := accessOffset_mono e₀.half.toNat (Nat.le_of_not_lt hle)
  omega

/-! ### The position at the tick before an access -/

/-- A wait that ends with half period number `k`, has no more than a half period left, and is over at the next tick when
that is the end of half period number `k'`. -/
theorem wait_over_at {half n c k k' : Nat} (hwait : n + c = k * half) (hone : 1 ≤ c) (hle : c ≤ half)
    (hnext : n + 1 = k' * half) : k = k' ∧ c = 1 := by
  have hlow : k' ≤ k := Nat.le_of_mul_le_mul_right (by omega : k' * half ≤ k * half) (by omega)
  have hhigh : k < k' + 1 := Nat.lt_of_mul_lt_mul_right (a := half) (by rw [Nat.add_one_mul]; omega)
  obtain rfl : k = k' := by omega
  exact ⟨rfl, by omega⟩

section
variable {env : Nat → Lines} {e₀ e : Engine} {n i : Nat}

/-- The quiet wait begins no sooner than half period number 32 ends. -/
theorem OnSchedule.not_quietWait (h : OnSchedule env e₀ n e) (hinv : PositionInv e) (hbusy : e.state ≠ .idle)
    {k : Nat} (hk : k < 32) (hnext : n + 1 = k * e₀.half.toNat) : e.state ≠ .quietWait := by
  intro hstate
  have hquiet := hinv.wait.2 hstate
  have hbound := Nat.mul_le_mul_right e₀.half.toNat (show k ≤ 32 by omega)
  cases h with
  | low hstate' | high hstate' => simp [hstate'] at hstate
  | quiet _ hwait hdone => rw [scanTicks, ← hdone.quiet] at hwait; omega
  | ended => exact absurd rfl hbusy

/-- One tick before the end of an odd half period a scan on schedule is about to drive the clock high. -/
theorem OnSchedule.low_of_next (h : OnSchedule env e₀ n e) (hinv : PositionInv e) (hbusy : e.state ≠ .idle)
    (hi : i < 16) (hnext : n + 1 = (2 * i + 1) * e₀.half.toNat) :
    e.state = .clocking ∧ e.ph = .low ∧ e.cnt.toNat = 1 ∧ e.idx.toNat = i ∧ Accessed env e₀ n (3 * i + 1) e := by
  obtain ⟨hone, -⟩ := hinv.rest.2 hbusy
  have hquiet := h.not_quietWait hinv hbusy (by omega) hnext
  cases h with
  | low hstate hph hwait hdone =>
    obtain ⟨hk, hcnt⟩ := wait_over_at hwait hone (hdone.half ▸ hinv.wait.1 hstate) hnext
    obtain rfl : e.idx.toNat = i := by omega
    exact ⟨hstate, hph, hcnt, rfl, hdone⟩
  | high hstate hph hwait hdone =>
    have hk := (wait_over_at hwait hone (hdone.half ▸ hinv.wait.1 hstate) hnext).1
    omega
  | quiet hstate => exact absurd hstate hquiet
  | ended => exact absurd rfl hbusy

/-- One tick before the end of an even half period a scan on schedule is about to go to the next channel. -/
theorem OnSchedule.high_of_next (h : OnSchedule env e₀ n e) (hinv : PositionInv e) (hbusy : e.state ≠ .idle)
    (hi : i < 15) (hnext : n + 1 = (2 * i + 1 + 1) * e₀.half.toNat) :
    e.state = .clocking ∧ e.ph = .high ∧ e.cnt.toNat = 1 ∧ e.idx.toNat = i ∧ Accessed env e₀ n (3 * i + 3) e := by
  obtain ⟨hone, -⟩ := hinv.rest.2 hbusy
  have hquiet := h.not_quietWait hinv hbusy (by omega) hnext
  cases h with
  | low hstate hph hwait hdone =>
    have hk := (wait_over_at hwait hone (hdone.half ▸ hinv.wait.1 hstate) hnext).1
    omega
  | high hstate hph hwait hdone =>
    obtain ⟨hk, hcnt⟩ := wait_over_at hwait hone (hdone.half ▸ hinv.wait.1 hstate) hnext
    obtain rfl : e.idx.toNat = i := by omega
    exact ⟨hstate, hph, hcnt, rfl, hdone⟩
  | quiet hstate => exact absurd hstate hquiet
  | ended => exact absurd rfl hbusy

end

/-! ### The abort at an access -/

/-- `e` is what a line fault at access number `a` leaves of the scan accepted by `e₀`, `n` ticks after its acceptance: the
accesses before it stand, and the clock line is at the level of the last drive among them. -/
def AbortedAt (env : Nat → Lines) (e₀ : Engine) (n a : Nat) (e : Engine) : Prop :=
  ∃ x, e = raise .lineError x ∧ Accessed env e₀ n a x ∧
    x.clk = lineLevel e₀.clk (lineEvents env e₀.now e₀.half.toNat a)

section
variable {env : Nat → Lines} {e₀ e : Engine} {n i : Nat}

/-- The drive high of channel `i` at its tick count, with the read after it still to come. -/
theorem Accessed.driveHigh (h : Accessed env e₀ n (3 * i + 1) e) (hn : n = (2 * i + 1) * e₀.half.toNat) :
    Accessed env e₀ n (3 * i + 2) (driveClk .high e) := by
  refine { h with trace := ?_, acc := fun j hj => ?_ }
  · rw [driveClk_high_trace, h.trace, h.now, lineEvents_succ _ _ _ (3 * i + 1), accessEvent_driveHigh, hn,
      List.append_assoc]
  · have hsame : 3 * j + 2 < 3 * i + 1 ↔ 3 * j + 2 < 3 * i + 2 := by omega
    simp only [driveClk_high_acc, h.acc j hj, hsame]

/-- A fault at the first drive low, in the reaction to the command. -/
theorem abortedAt_startScan (hfault : accessFaults Config.params env e₀.now e₀.half.toNat (3 * 0) = true) :
    AbortedAt env e₀ 0 0 (startScan Config.params (env e₀.now) e₀) := by
  rw [accessFaults_driveLow, Nat.mul_zero, Nat.zero_mul, Nat.add_zero] at hfault
  rw [startScan, driveLow_of_fault hfault]
  exact ⟨_, rfl, ⟨rfl, rfl, rfl, rfl, rfl, by simp [lineEvents], by simp⟩, rfl⟩

/-- A fault at a drive high. -/
theorem OnSchedule.abortedAt_driveHigh (h : OnSchedule env e₀ n e) (hinv : PositionInv e) (hbusy : e.state ≠ .idle)
    (hi : i < 16) (hnext : n + 1 = (2 * i + 1) * e₀.half.toNat)
    (hfault : accessFaults Config.params env e₀.now e₀.half.toNat (3 * i + 1) = true) :
    AbortedAt env e₀ (n + 1) (3 * i + 1) (Machine.onTick Config.params (env (e₀.now + (n + 1))) e) := by
  obtain ⟨hstate, hph, hcnt, -, hdone⟩ := h.low_of_next hinv hbusy hi hnext
  rw [accessFaults_driveHigh, ← hnext] at hfault
  rw [onTick_low hstate hph hcnt.le, driveHighAndSample_of_drive_fault hfault]
  exact ⟨_, rfl, hdone.tick _ _ _, (hinv.clock.1 hstate hph).trans (lineLevel_lineEvents_driveLow ..).symm⟩

/-- A fault at a read, with the drive high before it granted. -/
theorem OnSchedule.abortedAt_read (h : OnSchedule env e₀ n e) (hinv : PositionInv e) (hbusy : e.state ≠ .idle)
    (hi : i < 16) (hnext : n + 1 = (2 * i + 1) * e₀.half.toNat)
    (hgranted : accessFaults Config.params env e₀.now e₀.half.toNat (3 * i + 1) = false)
    (hfault : accessFaults Config.params env e₀.now e₀.half.toNat (3 * i + 2) = true) :
    AbortedAt env e₀ (n + 1) (3 * i + 2) (Machine.onTick Config.params (env (e₀.now + (n + 1))) e) := by
  obtain ⟨hstate, hph, hcnt, -, hdone⟩ := h.low_of_next hinv hbusy hi hnext
  rw [accessFaults_driveHigh, ← hnext] at hgranted
  rw [accessFaults_read, ← hnext] at hfault
  rw [onTick_low hstate hph hcnt.le, driveHighAndSample_of_read_fault hgranted hfault]
  exact ⟨_, rfl, (hdone.tick _ _ _).driveHigh hnext, (lineLevel_lineEvents_driveHigh ..).symm⟩

/-- A fault at the drive low of a channel after the first. -/
theorem OnSchedule.abortedAt_driveLow (h : OnSchedule env e₀ n e) (hinv : PositionInv e) (hbusy : e.state ≠ .idle)
    (hi : i < 15) (hnext : n + 1 = (2 * i + 1 + 1) * e₀.half.toNat)
    (hfault : accessFaults Config.params env e₀.now e₀.half.toNat (3 * (i + 1)) = true) :
    AbortedAt env e₀ (n + 1) (3 * (i + 1)) (Machine.onTick Config.params (env (e₀.now + (n + 1))) e) := by
  obtain ⟨hstate, hph, hcnt, hidx, hdone⟩ := h.high_of_next hinv hbusy hi hnext
  obtain ⟨-, hhigh, -⟩ := hinv.clock
  rw [accessFaults_driveLow, Nat.mul_add_one, ← hnext] at hfault
  rw [onTick_high_of_lt hstate hph hcnt.le (hidx ▸ hi), driveLow_of_fault hfault]
  exact ⟨_, rfl, hdone.tick _ _ _, (hhigh hstate hph).trans (lineLevel_lineEvents_read ..).symm⟩

/-- A fault at an access in a tick's reaction. -/
theorem OnSchedule.abortedAt {a : Nat} (h : OnSchedule env e₀ n e) (hinv : PositionInv e) (hbusy : e.state ≠ .idle)
    (ha : a < 48) (hnext : n + 1 = accessOffset e₀.half.toNat a)
    (hgranted : ∀ m < a, accessFaults Config.params env e₀.now e₀.half.toNat m = false)
    (hfault : accessFaults Config.params env e₀.now e₀.half.toNat a = true) :
    AbortedAt env e₀ (n + 1) a (Machine.onTick Config.params (env (e₀.now + (n + 1))) e) := by
  obtain ⟨i, rfl | rfl | rfl⟩ : ∃ i, a = 3 * i ∨ a = 3 * i + 1 ∨ a = 3 * i + 2 := ⟨a / 3, by omega⟩
  · rw [accessOffset_driveLow] at hnext
    cases i with
    | zero => simp at hnext
    | succ i => exact h.abortedAt_driveLow hinv hbusy (by omega) hnext hfault
  · rw [accessOffset_driveHigh] at hnext
    exact h.abortedAt_driveHigh hinv hbusy (by omega) hnext hfault
  · rw [accessOffset_read] at hnext
    exact h.abortedAt_read hinv hbusy (by omega) hnext (hgranted _ (Nat.lt_succ_self _)) hfault

end

section
variable {env : Nat → Lines} {e₀ : Engine} {a : Nat} (hconf : e₀.configured = true) (hhalf : 1 ≤ e₀.half.toNat)
  (ha : a < 48) (hgranted : ∀ m < a, accessFaults Config.params env e₀.now e₀.half.toNat m = false)
include hconf hhalf ha hgranted

/-- Before the tick count of its first line fault a scan is on schedule. -/
theorem onSchedule_before_fault {n : Nat} (hn : n < accessOffset e₀.half.toNat a) :
    OnSchedule env e₀ n (afterTicks env (startScan Config.params (env e₀.now) e₀) n) :=
  onSchedule_afterTicks hconf hhalf (hn.le.trans (accessOffset_le_scanTicks ha _ _)) (grantedUpTo_of_lt hgranted hn)

/-- Before the tick count of its first line fault a scan is in progress. -/
theorem busy_before_fault {n : Nat} (hn : n < accessOffset e₀.half.toNat a) :
    (afterTicks env (startScan Config.params (env e₀.now) e₀) n).state ≠ .idle :=
  (onSchedule_before_fault hconf hhalf ha hgranted hn).busy (hn.trans_le (accessOffset_le_scanTicks ha _ _))

/-- A scan whose first line fault is at access number `a` is aborted there, at the tick count of the access. -/
theorem abortedAt_afterTicks (hfault : accessFaults Config.params env e₀.now e₀.half.toNat a = true) :
    AbortedAt env e₀ (accessOffset e₀.half.toNat a) a
      (afterTicks env (startScan Config.params (env e₀.now) e₀) (accessOffset e₀.half.toNat a)) := by
  cases hn : accessOffset e₀.half.toNat a with
  | zero =>
    obtain rfl := eq_zero_of_accessOffset_eq_zero hhalf hn
    exact abortedAt_startScan hfault
  | succ n =>
    have hlt : n < accessOffset e₀.half.toNat a := hn ▸ Nat.lt_succ_self n
    have hinv := (positionInv_startScan (env e₀.now) hconf hhalf).afterTicks env n
    rw [afterTicks, startScan_now, Nat.add_assoc]
    exact (onSchedule_before_fault hconf hhalf ha hgranted hlt).abortedAt hinv
      (busy_before_fault hconf hhalf ha hgranted hlt) ha hn.symm hgranted hfault

end

/-- Settles O53: the engine is the one after the ticks, the last of which meets the fault. -/
theorem lineFaultEndsScanAtItsAccess : Obligations.LineFaultEndsScanAtItsAccess := by
  intro k s env w es a hidle hconf hhalf hdecode ha hhappened hreset hends hticks hgranted hfault
  obtain ⟨t, ht⟩ := exists_runSteps_eq_next k s
  have hteng := eng_eq_afterTicks hidle hconf hdecode hhappened hreset hticks ht
    (fun m hm => busy_before_fault hconf hhalf ha hgranted hm) (.inr hends)
  obtain ⟨x, hx, hdone, hclk⟩ := abortedAt_afterTicks hconf hhalf ha hgranted hfault
  have hconf' : (raise .lineError x).configured = true := hdone.configured.trans hconf
  rw [hx] at hteng
  rw [← hdone.trace]
  refine ⟨t, ht, ?_⟩
  rw [hteng]
  exact ⟨rfl, rfl, rfl, hdone.now, rfl, hclk, hdone.half, hdone.quiet, hconf',
    fun v => (cmdReady_iff _ v).2 ⟨rfl, .inr hconf'⟩⟩

end Sys2Proof.Machine

/-! ## Instants, the events within them, and the ends of runs (R31, R62, R139, R156, R161, R162, R179) -/

namespace Sys2Proof.Machine

/-! ### The environment's next instant (R156, R162) -/

/-- A listed instant is presented. -/
theorem step_of_listed_instant {s : State} {i : Instant} {is : List Instant} (hpending : s.pending = [])
    (hinputs : s.inputs = i :: is) : step s = .next { beginInstant i s with inputs := is } := by
  rw [step_of_no_event hpending, presentInstant, hinputs]

/-- A free instant within the gap is presented. -/
theorem step_of_free_instant {s : State} {n : Nat} (hpending : s.pending = []) (hinputs : s.inputs = [])
    (hdue : tickDue s = n + 1) :
    step s = .next { beginInstant (Config.freeInstant s.instants) s with tickWithin := some n } := by
  rw [step_of_no_event hpending]
  simp only [presentInstant, hinputs, hdue]

/-- A free instant with the tick that ends the gap is presented. -/
theorem step_of_free_tick {s : State} (hpending : s.pending = []) (hinputs : s.inputs = []) (hdue : tickDue s = 0) :
    step s = .next { beginInstant (withTick (Config.freeInstant s.instants)) s with tickWithin := none } := by
  rw [step_of_no_event hpending]
  simp only [presentInstant, hinputs, hdue]

/-- A `Reset` is its reaction. -/
theorem step_of_reset {s : State} {es : List Event} (h : s.pending = .reset :: es) :
    step s = .next { s with pending := es, eng := Engine.resetWith Config.params } := by
  rw [step, h]
  rfl

theorem runSteps_one (s : State) : runSteps 1 s = step s := by
  obtain ⟨t, ht⟩ := exists_step_eq_next s
  rw [runSteps_succ 0 ht, runSteps_zero, ht]

theorem eventsOf_reset {i : Instant} (hrst : i.rst = true) : eventsOf i = [.reset] := if_pos hrst

theorem eventsOf_tick_and_command {i : Instant} (hrst : i.rst = false) (htick : i.tick = true)
    (hvalid : i.cmdValid = true) : eventsOf i = [.tick i.tickLine, .offer i.cmd i.cmdLine] := by
  simp [eventsOf, hrst, htick, hvalid]

/-- Settles O9: the step's case for each event, and for each instant the environment can present. -/
theorem stepTakesEventsInOrder : Obligations.StepTakesEventsInOrder := by
  refine ⟨fun _ _ _ h => step_of_tick h, fun _ _ h => step_of_reset h,
    fun _ _ _ hpending hinputs => step_of_listed_instant hpending hinputs, ?_, ?_⟩
  · rintro s _ n hpending hinputs hdue rfl
    exact step_of_free_instant hpending hinputs hdue
  · rintro s _ hpending hinputs hdue rfl
    exact step_of_free_tick hpending hinputs hdue

/-- Settles O11: the steps present the instant, take its tick, and run its word. -/
theorem tickComesBeforeCommand : Obligations.TickComesBeforeCommand := by
  intro s i is hpending hinputs hrst htick hvalid
  have hpresent := step_of_listed_instant hpending hinputs
  have hevents := eventsOf_tick_and_command hrst htick hvalid
  rw [runSteps_succ 2 hpresent, runSteps_succ 1 (step_of_tick hevents), runSteps_one, step_of_offer rfl]
  rfl

/-- Settles O12: the `Reset` is the only event of its instant, and the reset engine accepts only a `CONFIG`. -/
theorem resetOverridesItsInstant : Obligations.ResetOverridesItsInstant := by
  intro s i is hpending hinputs hrst
  have hpresent := step_of_listed_instant hpending hinputs
  have hreset := step_of_reset (s := { beginInstant i s with inputs := is }) (eventsOf_reset hrst)
  refine ⟨_, (runSteps_succ 1 hpresent).trans (runSteps_succ 0 hreset), rfl, rfl, rfl, rfl, rfl, ?_, rfl⟩
  exact cmdReady_of_unconfigured rfl rfl

/-! ### The host's probe (R161) -/

/-- The engine made ready for a word accepts it: as it was, as after reset for a `CONFIG`, configured for a `SCAN`. -/
theorem cmdReady_readyFor (w : CmdWord) (e : Engine) : cmdReady (readyFor w e) w = true := by
  unfold readyFor
  split
  · assumption
  · split
    · next hconfig => exact (cmdReady_iff _ w).2 ⟨rfl, .inl hconfig⟩
    · exact (cmdReady_iff _ w).2 ⟨rfl, .inr rfl⟩

/-- Settles O16: the engine is made ready, and the word is the next event. -/
theorem probedWordIsRun : Obligations.ProbedWordIsRun :=
  fun _ _ _ hbits => ⟨cmdReady_readyFor _ _, _, if_pos hbits, step_of_offer rfl⟩

/-! ### A scan that starts where another one ends (R120, R162) -/

/-- The tick that ends a scan responds, whether or not there was a quiet wait. -/
theorem onTick_responds {l : Lines} {e : Engine}
    (hlast : e.state = .quietWait ∨ (e.state = .clocking ∧ e.ph = .high ∧ e.idx = 15 ∧ e.quiet = 0))
    (hcnt : e.cnt.toNat ≤ 1) :
    onTick Config.params l e = respondFrame { e with now := e.now + 1, cnt := 0 } := by
  obtain hstate | ⟨hstate, hph, hidx, hquiet⟩ := hlast
  · exact onTick_quietWait hstate hcnt
  · exact onTick_skips_quiet hstate hph hcnt hidx hquiet

/-- Settles O58: the tick responds and leaves `Idle`, where the `SCAN` of its instant begins. -/
theorem nextScanStartsAtResponse : Obligations.NextScanStartsAtResponse := by
  intro s i is hpending hinputs hrst htick hvalid hdecode hdrive hlast hcnt hconf
  have hresponds := onTick_responds (l := i.tickLine) hlast (by simp [hcnt])
  rw [tickComesBeforeCommand s i is hpending hinputs hrst htick hvalid, hdecode, hresponds, respondFrame_eq]
  refine ⟨_, scanBeginsFirstCycle _ rfl hconf hdrive, rfl, rfl, ?_⟩
  simp

/-! ### How a run ends (R179) -/

/-- An accepted word leaves the port, and its instruction is run. -/
theorem step_of_accepted {s : State} {w : CmdWord} {l : Lines} {es : List Event}
    (hpending : s.pending = .offer w l :: es) (hready : cmdReady s.eng w = true) :
    step s = .next { s with
      pending := es, line := l, port := none, eng := reactToCommand l s.eng (decode w) } := by
  have haccept := (accepts_decode s.eng w).trans hready
  rw [step_of_offer hpending]
  cases hdecode : decode w with
  | scan => exact if_pos (hdecode ▸ haccept)
  | config t f q => exact if_pos (hdecode ▸ haccept)

/-- Of the accepted instructions only a `SCAN` that is granted its first access leaves the engine busy. -/
theorem reactToCommand_busy_iff (l : Lines) {e : Engine} (hidle : e.state = .idle) (i : Instr) :
    (reactToCommand l e i).state ≠ .idle ↔ i = .scan ∧ l.errDrive = false := by
  cases i with
  | scan =>
    obtain ⟨hdrive, heq⟩ | ⟨hdrive, heq⟩ := startScan_cases l e
    · simp [reactToCommand, heq, hdrive]
    · simp [reactToCommand, heq, hdrive]
  | config t f q =>
    have hsame : (configure Config.params t f q e).state = e.state := by rw [sameButConfig_configure]
    simp [reactToCommand, hsame, hidle]

theorem not_final_of_onOffer {s : State} {w : CmdWord} (h : OnOffer s w) : ¬ Final s :=
  fun hfinal => hfinal.2 w h

theorem final_iff_of_port_empty {s : State} (h : ∀ w, ¬ OnOffer s w) : Final s ↔ ¬ NotOver s := by
  simp [Final, NotOver, h]

/-- An engine in `Idle` without a configuration does not accept the `SCAN`. -/
theorem BlockedOn.not_ready {s : State} {w : CmdWord} (h : BlockedOn s w) : cmdReady s.eng w = false := by
  obtain ⟨-, hconf, -, hdecode⟩ := h
  rw [← accepts_decode, hdecode]
  exact accepts_scan_of_unconfigured hconf

/-- A step after which the `SCAN` is still on offer has accepted no word: it leaves
the run blocked, with no response. -/
theorem BlockedOn.step {s t : State} {w : CmdWord} (h : BlockedOn s w) (ht : step s = .next t) (hoffer : OnOffer t w) :
    BlockedOn t w ∧ (responses t.eng).length ≤ (responses s.eng).length := by
  obtain ⟨hidle, hconf, -, hdecode⟩ := h
  obtain ⟨-, rfl⟩ | ⟨es, -, rfl⟩ | ⟨l, es, -, rfl⟩ | ⟨v, l, es, -, -, -, rfl⟩ | ⟨v, l, es, a, b, c, -, -, -, rfl⟩ |
    ⟨v, l, es, -, -, rfl⟩ := step_cases ht
  · rw [BlockedOn, presentInstant_eng]
    exact ⟨⟨hidle, hconf, hoffer, hdecode⟩, le_rfl⟩
  · exact ⟨⟨rfl, rfl, hoffer, hdecode⟩, Nat.zero_le _⟩
  · rw [BlockedOn, takeTick_eng, onTick_idle hidle]
    exact ⟨⟨hidle, hconf, hoffer, hdecode⟩, le_rfl⟩
  · cases hoffer
  · cases hoffer
  · exact ⟨⟨hidle, hconf, hoffer, hdecode⟩, le_rfl⟩

/-- While the host keeps the `SCAN` on offer the run stays blocked, with no response. -/
theorem StuckFor.blocked {k : Nat} {s : State} {w : CmdWord} (h : StuckFor k s w) :
    ∃ t, runSteps k s = .next t ∧ BlockedOn t w ∧ (responses t.eng).length ≤ (responses s.eng).length := by
  induction k generalizing s with
  | zero => exact ⟨s, rfl, h.1, le_rfl⟩
  | succ k ih =>
    obtain ⟨hblocked, hkeeps⟩ := h
    obtain ⟨u, hu⟩ := exists_step_eq_next s
    have hkeeps' : KeepsOffering k u w := fun j t hj ht =>
      hkeeps (j + 1) t (Nat.succ_le_succ hj) ((runSteps_succ j hu).trans ht)
    obtain ⟨hblocked', hfirst⟩ := hblocked.step hu (hkeeps' 0 u (Nat.zero_le k) rfl)
    obtain ⟨t, ht, hend, hrest⟩ := ih ⟨hblocked', hkeeps'⟩
    exact ⟨t, (runSteps_succ k hu).trans ht, hend, hrest.trans hfirst⟩

/-- A run is final, or not over, or has a word on offer to an engine in `Idle`. -/
theorem final_or_notOver_or_onOffer (s : State) :
    Final s ∨ NotOver s ∨ (s.eng.state = .idle ∧ ∃ w, OnOffer s w) := by
  by_cases hidle : s.eng.state = .idle
  · by_cases hoffer : ∃ w, OnOffer s w
    · exact .inr (.inr ⟨hidle, hoffer⟩)
    · exact .inl ⟨hidle, not_exists.1 hoffer⟩
  · exact .inr (.inl hidle)

/-- Settles O60: a waiting word stays on the port, an accepted one leaves it, and a blocked run stays blocked. -/
theorem endsOfRuns : Obligations.EndsOfRuns := by
  refine ⟨fun s w l es hpending hready => ?_, fun s w l es hpending hready => ?_, fun k s w hstuck => ?_,
    fun s => ⟨fun hfinal hbusy => hbusy hfinal.1, final_or_notOver_or_onOffer s⟩⟩
  · obtain ⟨-, -, hwaits⟩ := unacceptedCommandHasNoEffect
    exact ⟨_, hwaits s w l es hpending hready, rfl, rfl, not_final_of_onOffer rfl⟩
  · have hidle := ((cmdReady_iff s.eng w).1 hready).1
    exact ⟨_, step_of_accepted hpending hready, nofun, reactToCommand_busy_iff l hidle (decode w),
      final_iff_of_port_empty nofun⟩
  · obtain ⟨t, ht, hblocked, hresponses⟩ := hstuck.blocked
    have ⟨_, _, hoffer, _⟩ := hblocked
    exact ⟨t, ht, hblocked, not_final_of_onOffer hoffer, hblocked.not_ready, hresponses⟩

end Sys2Proof.Machine

/-! ## The spec's encoding vectors (R59, R60, R61; test vectors, section 2.1) -/

namespace Sys2Proof.Machine

/-- A word that agrees with an encoded instruction in bits 96:0 decodes to it, whatever its reserved bits (R59). -/
theorem decode_of_low_bits_eq_encode {w : CmdWord} {i : Instr}
    (h : w.extractLsb' 0 97 = (encode i).extractLsb' 0 97) : decode w = i :=
  (decode_eq_of_low_bits_eq h).trans (decode_encode i)

/-- Settles O4: the `SCAN` words have bit 96 clear; the `CONFIG` words are encoded ones up to their reserved bits. -/
theorem vectorWordsDecode : Obligations.VectorWordsDecode := by
  refine ⟨?scanZero, ?scanPayloadSet, ?scanReservedSet, ?config, ?configReservedSet, ?configBit97Set⟩
  case scanZero | scanPayloadSet | scanReservedSet => exact decode_of_scan_bit (by decide)
  case config | configReservedSet | configBit97Set => exact decode_of_low_bits_eq_encode (by decide)

end Sys2Proof.Machine
